-- ==== Sys2Proof/Word.lean ====
section
/-! DEFINITION. The widths of the prng CORE: the words of the engines (00_scope.md R12), the command word and the
response word (30_encoding.md R80, R81). Every value of the block is an unsigned word of a fixed width (R14). -/

namespace Sys2Proof

/-- A `u32` (R14). -/
abbrev Word32 := BitVec 32

/-- A `u64` (R14); also one operand of a command (R80). -/
abbrev Word64 := BitVec 64

/-- An opcode (R80). -/
abbrev Opcode := BitVec 4

/-- A command word, format `CMD` (R80). -/
abbrev CommandWord := BitVec 132

/-- The data field of a response (R81). -/
abbrev Datum := BitVec 67

/-- A response word, format `RSP` (R81). -/
abbrev ResponseWord := BitVec 69

end Sys2Proof
end

