-- ==== Sys2Proof/Syntax.lean ====
section
/-! DEFINITION. The twelve commands (30_encoding.md R82) and the names that decoding and assembly use. -/

namespace Sys2Proof

/-- The twelve commands of R82, each with the operands its row uses. An operand is the whole 64-bit field: which of its
bits matter is the command's rule (R83, R84). -/
inductive Instr where
  /-- `LCG.SEED a` (R110). -/
  | lcgSeed (a : Word64)
  /-- `LCG.NEXT` (R111). -/
  | lcgNext
  /-- `XS.SEED a, b` (R130). -/
  | xsSeed (a b : Word64)
  /-- `XS.NEXT` (R131). -/
  | xsNext
  /-- `MT.SEED a` (R150). -/
  | mtSeed (a : Word64)
  /-- `MT.NEXT` (R151). -/
  | mtNext
  /-- `PCG.SEED a, b` (R180). -/
  | pcgSeed (a b : Word64)
  /-- `PCG.NEXT` (R181). -/
  | pcgNext
  /-- `LAG.SEED a` (R200). -/
  | lagSeed (a : Word64)
  /-- `LAG.NEXT` (R201). -/
  | lagNext
  /-- `COMBINE.CLK b` (R230). -/
  | combineClk (b : Word64)
  /-- `COMBINE.SEED a, b` (R231). -/
  | combineSeed (a b : Word64)
deriving DecidableEq, Repr

/-- The five engines (00_scope.md R2). -/
inductive Engine where
  | lcg
  | xs
  | mt
  | pcg
  | lag
deriving DecidableEq, Repr

/-- Why a command word is no command. -/
inductive Reject where
  /-- The opcodes 0xC to 0xF spell no command (R85). -/
  | illegalOpcode (op : Opcode)
deriving DecidableEq, Repr

/-- A written operand (R87): an integer, or the `none` of the pseudo-command `COMBINE` (R88). -/
inductive WrittenOperand where
  | absent
  | int (v : Int)
deriving DecidableEq, Repr

/-- Why a line of assembly text is no command (R87, R88). -/
inductive AsmError where
  /-- No mnemonic of R82 or R88 with this number and kind of operands. -/
  | badCommand
  /-- An operand that is no integer literal. -/
  | badOperand
deriving DecidableEq, Repr

end Sys2Proof
end

