-- ==== Sys2Proof/WellFormed.lean ====
section
/-! DEFINITION. Well-formed commands: the canonical ones of 30_encoding.md R84, "every ignored bit 0". The block refuses
nothing for being otherwise: it runs a command that is not canonical as R84 says (log 12). -/

namespace Sys2Proof

/-- The command's operands have a 0 in every bit that the command ignores (R82, column "operands used"; R84). The two
32-bit seeds are the only operands with ignored bits of their own. -/
def Instr.wellFormed : Instr → Bool
  | .lcgSeed a => a.toNat < 2 ^ 32
  | .lcgNext => true
  | .xsSeed _ _ => true
  | .xsNext => true
  | .mtSeed a => a.toNat < 2 ^ 32
  | .mtNext => true
  | .pcgSeed _ _ => true
  | .pcgNext => true
  | .lagSeed _ => true
  | .lagNext => true
  | .combineClk _ => true
  | .combineSeed _ _ => true

end Sys2Proof
end

