-- ==== Sys2Proof/Decode.lean ====
section
/-! DEFINITION. Command words (30_encoding.md R80 to R86): the fields, the decoder, total on all 2^132 words, and the
encoder. The port takes a whole 132-bit word, so there is no byte order and no length to find (20_memory.md R63; R86). -/

namespace Sys2Proof

/-- `op`, bits [3:0] (R80). -/
def opField (w : CommandWord) : Opcode := w.extractLsb' 0 4

/-- `a`, bits [67:4] (R80, R83). -/
def aField (w : CommandWord) : Word64 := w.extractLsb' 4 64

/-- `b`, bits [131:68] (R80, R83). -/
def bField (w : CommandWord) : Word64 := w.extractLsb' 68 64

/-- The opcode map of R82; the opcodes 0xC to 0xF are rejected (R85). Operand fields that a command does not use are
not looked at (R84). -/
def decode (w : CommandWord) : Except Reject Instr :=
  match (opField w).toNat with
  | 0x0 => .ok (.lcgSeed (aField w))
  | 0x1 => .ok .lcgNext
  | 0x2 => .ok (.xsSeed (aField w) (bField w))
  | 0x3 => .ok .xsNext
  | 0x4 => .ok (.mtSeed (aField w))
  | 0x5 => .ok .mtNext
  | 0x6 => .ok (.pcgSeed (aField w) (bField w))
  | 0x7 => .ok .pcgNext
  | 0x8 => .ok (.lagSeed (aField w))
  | 0x9 => .ok .lagNext
  | 0xA => .ok (.combineClk (bField w))
  | 0xB => .ok (.combineSeed (aField w) (bField w))
  | _ => .error (.illegalOpcode (opField w))

/-- The opcode of a command (R82). -/
def opcodeOf : Instr → Opcode
  | .lcgSeed _ => 0x0
  | .lcgNext => 0x1
  | .xsSeed _ _ => 0x2
  | .xsNext => 0x3
  | .mtSeed _ => 0x4
  | .mtNext => 0x5
  | .pcgSeed _ _ => 0x6
  | .pcgNext => 0x7
  | .lagSeed _ => 0x8
  | .lagNext => 0x9
  | .combineClk _ => 0xA
  | .combineSeed _ _ => 0xB

/-- What stands in field `a`; 0 where the command does not use it (R82, R84). -/
def operandA : Instr → Word64
  | .lcgSeed a => a
  | .lcgNext => 0
  | .xsSeed a _ => a
  | .xsNext => 0
  | .mtSeed a => a
  | .mtNext => 0
  | .pcgSeed a _ => a
  | .pcgNext => 0
  | .lagSeed a => a
  | .lagNext => 0
  | .combineClk _ => 0
  | .combineSeed a _ => a

/-- What stands in field `b`; 0 where the command does not use it (R82, R84). The clock reading of both `COMBINE` forms
stands here (R83). -/
def operandB : Instr → Word64
  | .lcgSeed _ => 0
  | .lcgNext => 0
  | .xsSeed _ b => b
  | .xsNext => 0
  | .mtSeed _ => 0
  | .mtNext => 0
  | .pcgSeed _ b => b
  | .pcgNext => 0
  | .lagSeed _ => 0
  | .lagNext => 0
  | .combineClk b => b
  | .combineSeed _ b => b

/-- The command word of a command: the three fields side by side (R80). -/
def encode (i : Instr) : CommandWord :=
  operandB i ++ operandA i ++ opcodeOf i

/-- The bits of a command word that opcode `op` looks at (R82, column "operands used", and the opcode itself); every
other bit is ignored (R84). -/
def usedBits (op : Opcode) : CommandWord :=
  let opBits : CommandWord := 0xF
  let a32 : CommandWord := 0xFFFFFFFF <<< 4
  let a64 : CommandWord := 0xFFFFFFFFFFFFFFFF <<< 4
  let b64 : CommandWord := 0xFFFFFFFFFFFFFFFF <<< 68
  match op.toNat with
  | 0x0 => opBits ||| a32
  | 0x2 => opBits ||| a64 ||| b64
  | 0x4 => opBits ||| a32
  | 0x6 => opBits ||| a64 ||| b64
  | 0x8 => opBits ||| a64
  | 0xA => opBits ||| b64
  | 0xB => opBits ||| a64 ||| b64
  | _ => opBits

/-- The command word whose low `nbits` bits are `w` and whose other bits are 0. DESIGN CHOICE (log 13): bits of `w`
past the word's 132 are dropped. -/
def tableWord (nbits w : Nat) : CommandWord := BitVec.ofNat 132 (w % 2 ^ nbits)

/-- The command the decoder reads from a word of spec/opcode_table.json. -/
def decodeTableWord (nbits w : Nat) : Option Instr :=
  match decode (tableWord nbits w) with
  | .ok i => some i
  | .error _ => none

end Sys2Proof
end

