-- ==== Sys2Proof/Config.lean ====
section
/-! DEFINITION. What the spec leaves open (00_scope.md R13; 10_state.md R53): the `lag` engine's auxiliary state and its
two functions, and the values a reset leaves in the elements it does not define. Each open value is an opaque constant:
nothing in Lean can compute it, so a theorem holds whatever it is. `TO_FLOAT` and `LATENCY` (R13) are used by no rule
and stand nowhere (log 10, log 11). -/

namespace Sys2Proof

/-- The nonempty countable type that `code` selects: one value that is always there, and one further value for each
number that `code` admits. Where `code` admits none it has one element; every nonempty countable type is one of these, up
to the names of its values (Sys2Proof/Laws/Config.lean). -/
inductive LagAuxOf (code : Nat → Bool) where
  | base
  | further (n : Nat) (admitted : code n = true)
deriving DecidableEq, Repr, Inhabited

/-- Which type `LagAux` is (R13, log 3): open, so it may be the default one-element type or any larger one. -/
opaque Config.lagAuxCode : Nat → Bool

/-- `LagAux` (R13, R49): whatever state the sourced `lag` algorithm keeps beyond the array, the accumulator and "aa"; the
open functions alone read and write it. -/
abbrev LagAux := LagAuxOf Config.lagAuxCode

/-- The part of the `lag` engine's state that `LAG_INIT` and `LAG_MIX` compute (R13, R45 to R47, R49). -/
structure LagBlock where
  word : Vector Word32 256
  acc  : Word32
  aa   : Word32
  aux  : LagAux
deriving DecidableEq, Repr, Inhabited

/-- `LAG_INIT` (R13, R205): the initialisation of the `lag` engine from a seed (log 4). -/
opaque Config.lagInit : Word64 → LagBlock

/-- `LAG_MIX` (R13, R206): one full mixing pass of the `lag` engine (log 4). -/
opaque Config.lagMix : LagBlock → LagBlock

/-- What reset number `n` leaves in `lcg.state` (R53, log 2), as the constants after it say for the other elements. -/
opaque Config.resetLcgState : Nat → Word32
opaque Config.resetXsX : Nat → Word64
opaque Config.resetXsY : Nat → Word64
opaque Config.resetMtWord : Nat → Vector Word32 624
/-- R53: in particular the cursor need not be in its legal range. -/
opaque Config.resetMtCursor : Nat → BitVec 10
opaque Config.resetPcgState : Nat → Word64
opaque Config.resetPcgInc : Nat → Word64
opaque Config.resetLagBlock : Nat → LagBlock
/-- R53: in particular the count need not be in its legal range. -/
opaque Config.resetLagCount : Nat → BitVec 9

end Sys2Proof
end

