-- ==== Sys2Proof/Machine/State.lean ====
section
/-! DEFINITION. The state of the block: the seventeen elements of 10_state.md R30, and the three fields that are the
model's own (the host's moves to come, the responses given, the count of resets). The block has no memory, no program
counter, no control or status register and no trap state (R32, R33; 20_memory.md R60; 60_exceptions.md R256). -/

namespace Sys2Proof.Machine

/-- The `lcg` engine (R34, R31). -/
structure Lcg where
  state  : Word32
  seeded : Bool
deriving DecidableEq, Repr

/-- The `xs` engine (R35, R31). -/
structure Xs where
  x      : Word64
  y      : Word64
  seeded : Bool
deriving DecidableEq, Repr

/-- The `mt` engine (R40, R41, R31). Ten bits hold the cursor; its legal values are 0 to 623. -/
structure Mt where
  word   : Vector Word32 624
  cursor : BitVec 10
  seeded : Bool
deriving DecidableEq, Repr

/-- The `pcg` engine (R43, R44, R31). -/
structure Pcg where
  state  : Word64
  inc    : Word64
  seeded : Bool
deriving DecidableEq, Repr

/-- The `lag` engine: `lag.word`, `lag.acc`, `lag.aa`, `lag.aux` (R45 to R47, R49), the count (R48) and the flag (R31).
Nine bits hold the count; its legal values between commands are 0 to 255. -/
structure Lag extends LagBlock where
  count  : BitVec 9
  seeded : Bool
deriving DecidableEq, Repr

/-- The status of a response (30_encoding.md R81, R90). -/
inductive Status where
  | ok
  /-- A NEXT of an engine whose flag is 0 (60_exceptions.md R251). -/
  | notSeeded
  /-- A word whose opcode spells no command (60_exceptions.md R252). -/
  | illegalCommand
deriving DecidableEq, Repr

/-- The block's one answer to a command (00_scope.md R25; 30_encoding.md R81). -/
structure Response where
  status : Status
  data   : Datum
deriving DecidableEq, Repr

/-- What the host may do between commands (70_reset_and_hazards.md R289). -/
inductive HostMove where
  /-- Issue a command word: any of the 2^132. -/
  | command (w : CommandWord)
  /-- Apply reset to the whole block (R280, R282). -/
  | reset
deriving DecidableEq, Repr

/-- The machine: the five engines (R30), and the model's own record of what passes between host and block. -/
structure State where
  lcg : Lcg
  xs  : Xs
  mt  : Mt
  pcg : Pcg
  lag : Lag
  /-- The host's moves still to come, the next one first. DESIGN CHOICE (log 5). -/
  moves : List HostMove
  /-- The responses given so far, the oldest first. DESIGN CHOICE (log 6). -/
  responses : List Response
  /-- How many reset moves have been applied: the argument of the free values a reset leaves. DESIGN CHOICE (log 2). -/
  resets : Nat
deriving DecidableEq, Repr

/-- What stops the machine. The spec gives the block no fault (60_exceptions.md R253); the two here stand for reading an
array word that does not exist, in states that no run reaches (log 7). -/
inductive Fault where
  /-- Raised by `MT.NEXT` on a seeded engine whose cursor is over 623 (R41: never produced by any rule). Safe. -/
  | mtWordAbsent
  /-- Raised by `LAG.NEXT` on a seeded engine whose count is over 256 (R48: never produced by any rule). Safe. -/
  | lagWordAbsent
deriving DecidableEq, Repr

/-- What the model does not run. -/
inductive Refusal where
  /-- Raised by an arm of `exec` for an instruction that has no meaning yet; no arm raises it. Safe. -/
  | notModelled (mnemonic : String)
deriving DecidableEq, Repr

/-- What one step answers. -/
abbrev Answer := Host.Outcome State Fault Refusal

/-- The machine right after reset: the five flags 0 (10_state.md R53); every other element is unspecified by R53 and
0 here. DESIGN CHOICE (log 1), unsafe. No move is pending and no response has been given (log 5, log 6). -/
def State.reset : State where
  lcg := { state := 0, seeded := false }
  xs := { x := 0, y := 0, seeded := false }
  mt := { word := Vector.replicate 624 0, cursor := 0, seeded := false }
  pcg := { state := 0, inc := 0, seeded := false }
  lag := { word := Vector.replicate 256 0, acc := 0, aa := 0, aux := .base, count := 0, seeded := false }
  moves := []
  responses := []
  resets := 0

end Sys2Proof.Machine
end

