-- ==== Sys2Proof/Machine/Flags.lean ====
section
/-! DEFINITION. The five `seeded` flags, the block's only flags (10_state.md R31). No arithmetic result sets a flag. A
`SEED` sets its engine's flag with the rest of that engine's state (the families' files); here are the reading of a
flag and the discard. -/

namespace Sys2Proof.Machine

/-- `E.seeded` (R31). -/
def seededFlag (e : Engine) (s : State) : Bool :=
  match e with
  | .lcg => s.lcg.seeded
  | .xs => s.xs.seeded
  | .mt => s.mt.seeded
  | .pcg => s.pcg.seeded
  | .lag => s.lag.seeded

/-- The end of every `COMBINE`: the five flags are cleared and nothing else changes (45_combiner.md R236). -/
def discardAll (s : State) : State :=
  { s with
    lcg := { s.lcg with seeded := false }
    xs := { s.xs with seeded := false }
    mt := { s.mt with seeded := false }
    pcg := { s.pcg with seeded := false }
    lag := { s.lag with seeded := false } }

end Sys2Proof.Machine
end

