-- ==== Sys2Proof/Machine/Operands.lean ====
section
/-! DEFINITION. Operand forms (30_encoding.md R83; 00_scope.md R23), the Combiner's seeds (45_combiner.md R232), the
rotation (00_scope.md R17), and how a numerator stands in the data field (30_encoding.md R81, R89). -/

namespace Sys2Proof.Machine

/-- `a[31:0]`, the form of a 32-bit seed (R83). -/
def low32 (a : Word64) : Word32 := a.setWidth 32

/-- The operand field of an integer: its residue modulo 2^64 (R23, R87). The host owes this reduction. -/
def operandOfInt (v : Int) : Word64 := BitVec.ofInt 64 v

/-- The master seed with the user seed absent (R230, R232). -/
def masterOfClock (clock : Word64) : Word64 := clock

/-- The master seed with a user seed present (R231, R232). -/
def masterOfSeed (userSeed clock : Word64) : Word64 := userSeed * clock

/-- `m1 = (m + 1) mod 2^64` (R232). -/
def masterSucc (m : Word64) : Word64 := m + 1

/-- `ror32(v, r)` for `r` in [0, 31] (R17); the case 0 stands apart, as there. -/
def ror32 (v : Word32) (r : Nat) : Word32 :=
  if r = 0 then v else (v >>> r) ||| (v <<< (32 - r))

/-- A 32-bit numerator in the data field, zeros above it (R81; 20_memory.md R63). -/
def datum32 (n : Word32) : Datum := n.setWidth 67

/-- A 64-bit numerator in the data field, zeros above it (R81). -/
def datum64 (n : Word64) : Datum := n.setWidth 67

/-- The engine a command belongs to; none for the Combiner (R82: `op[3:1]` selects the unit). -/
def engineOf : Instr → Option Engine
  | .lcgSeed _ => some .lcg
  | .lcgNext => some .lcg
  | .xsSeed _ _ => some .xs
  | .xsNext => some .xs
  | .mtSeed _ => some .mt
  | .mtNext => some .mt
  | .pcgSeed _ _ => some .pcg
  | .pcgNext => some .pcg
  | .lagSeed _ => some .lag
  | .lagNext => some .lag
  | .combineClk _ => none
  | .combineSeed _ _ => none

/-- The engine that the command seeds, for a `SEED` (R82). -/
def seedsEngine : Instr → Option Engine
  | .lcgSeed _ => some .lcg
  | .lcgNext => none
  | .xsSeed _ _ => some .xs
  | .xsNext => none
  | .mtSeed _ => some .mt
  | .mtNext => none
  | .pcgSeed _ _ => some .pcg
  | .pcgNext => none
  | .lagSeed _ => some .lag
  | .lagNext => none
  | .combineClk _ => none
  | .combineSeed _ _ => none

/-- The engine that the command draws from, for a `NEXT` (R82). -/
def drawsEngine : Instr → Option Engine
  | .lcgSeed _ => none
  | .lcgNext => some .lcg
  | .xsSeed _ _ => none
  | .xsNext => some .xs
  | .mtSeed _ => none
  | .mtNext => some .mt
  | .pcgSeed _ _ => none
  | .pcgNext => some .pcg
  | .lagSeed _ => none
  | .lagNext => some .lag
  | .combineClk _ => none
  | .combineSeed _ _ => none

end Sys2Proof.Machine
end

