-- ==== Sys2Proof/Machine/Ops.lean ====
section
/-! DEFINITION. The operations that commands share: answering (00_scope.md R21), raising an error (60_exceptions.md R251,
R252, R256), the check of a flag, and the host's side: taking its next move, reset (70_reset_and_hazards.md R280). The
block has no memory to load or store (20_memory.md R60) and no return from an error (60_exceptions.md R257). -/

namespace Sys2Proof.Machine

/-- The block gives one response. -/
def answer (r : Response) (s : State) : State :=
  { s with responses := s.responses ++ [r] }

/-- `respond(OK, d)` (R21). -/
def respond (d : Datum) (s : State) : State := answer { status := .ok, data := d } s

/-- Raising an error: the response carries the status and data 0, and no state element changes (R21, R256). The one way
in which an exception is taken; nothing is saved, so there is no return (R257). -/
def raise (e : Status) (s : State) : State := answer { status := e, data := 0 } s

/-- The first thing a NEXT does (R251): with its engine's flag 0 it raises `NotSeeded`. -/
def whenSeeded (flag : Bool) (s : State) (go : Answer) : Answer :=
  if flag then go else .next (raise .notSeeded s)

/-- Goes on with what a draw gives, or stops where the draw does. -/
def afterDraw {α : Type} (draw : Except Fault α) (go : α → Answer) : Answer :=
  match draw with
  | .ok x => go x
  | .error f => .fault f

/-- Takes the host's next move, if there is one. -/
def fetchMove (s : State) : Option (HostMove × State) :=
  match s.moves with
  | [] => none
  | m :: rest => some (m, { s with moves := rest })

/-- The host issues `w` as its very next move; the moves that were to come follow it (log 5). -/
def placeCommand (w : CommandWord) (s : State) : State :=
  { s with moves := .command w :: s.moves }

/-- No move of the host's is pending: the block is idle and keeps all state (60_exceptions.md R261; log 5). -/
def idle (s : State) : State := s

/-- A reset move (R280; 10_state.md R53): the five flags become 0 and every other element takes a free value, a new one
at every reset (log 2). Reset is no command and gets no response (log 14). -/
def applyReset (s : State) : State :=
  { s with
    lcg := { state := Config.resetLcgState s.resets, seeded := false }
    xs := { x := Config.resetXsX s.resets, y := Config.resetXsY s.resets, seeded := false }
    mt := { word := Config.resetMtWord s.resets, cursor := Config.resetMtCursor s.resets, seeded := false }
    pcg := { state := Config.resetPcgState s.resets, inc := Config.resetPcgInc s.resets, seeded := false }
    lag := { toLagBlock := Config.resetLagBlock s.resets, count := Config.resetLagCount s.resets, seeded := false }
    resets := s.resets + 1 }

end Sys2Proof.Machine
end

