-- ==== Sys2Proof/Machine/Mt.lean ====
section
/-! DEFINITION. The `mt` engine (42_mersenne_twister.md): `MT.SEED` (R150), `MT.NEXT` (R151), and their sub-operations
`temper` (R152) and `twist` (R153). -/

namespace Sys2Proof.Machine

/-- `mt.word` (10_state.md R40). -/
abbrev MtWords := Vector Word32 624

/-- The initialisation multiplier (00_scope.md R12). -/
def mtInitMultiplier : Word32 := 1812433253

/-- Word `i` of a fresh array from the word before it, modulo 2^32 (R150-code, the loop's body). -/
def mtInitStep (p : Word32) (i : Nat) : Word32 :=
  mtInitMultiplier * (p ^^^ (p >>> 30)) + BitVec.ofNat 32 i

/-- Word `i` of the array that the seed `a[31:0]` gives: each word is made from the one written just before (R150). -/
def mtInitWord (seed : Word32) : Nat → Word32
  | 0 => seed
  | i + 1 => mtInitStep (mtInitWord seed i) (i + 1)

/-- The engine that `MT.SEED a` constructs; it does not twist (R150-code). -/
def mtSeed (a : Word64) : Mt :=
  { word := Vector.ofFn fun i => mtInitWord (low32 a) i, cursor := 0, seeded := true }

/-- `temper(v)`, four steps in order (R152-code). -/
def temper (v : Word32) : Word32 :=
  let y1 := v ^^^ (v >>> 11)
  let y2 := y1 ^^^ ((y1 <<< 7) &&& 0x9D2C5680)
  let y3 := y2 ^^^ ((y2 <<< 15) &&& 0xEFC60000)
  y3 ^^^ (y3 >>> 18)

/-- The new word of one twist iteration from `word[i]`, `word[(i+1) mod 624]` and `word[(i+397) mod 624]` as they stand
at that iteration (R153-code, the loop's body). -/
def twistWord (cur nxt far : Word32) : Word32 :=
  let hi := cur &&& 0x80000000
  let lo := nxt &&& 0x7FFFFFFF
  let y := hi ||| lo
  let v := far ^^^ (y >>> 1)
  if y.getLsbD 0 then v ^^^ 0x9908B0DF else v

/-- Iteration `i` of the twist, in place (R153-code). -/
def twistAt (w : MtWords) (i : Nat) (h : i < 624) : MtWords :=
  w.set i
    (twistWord w[i]
      (w[(i + 1) % 624]'(Nat.mod_lt _ (by decide)))
      (w[(i + 397) % 624]'(Nat.mod_lt _ (by decide))))

/-- The array after iterations 0 to `n - 1` of the twist, in ascending order, each seeing the writes of the earlier
ones (R153, R154). -/
def twistUpTo (w : MtWords) : (n : Nat) → n ≤ 624 → MtWords
  | 0, _ => w
  | n + 1, h => twistAt (twistUpTo w n (Nat.le_of_succ_le h)) n h

/-- `twist()`: all 624 iterations (R153). -/
def twist (w : MtWords) : MtWords := twistUpTo w 624 (Nat.le_refl 624)

/-- One draw: the engine after it and the numerator (R151-code). A cursor over 623 selects no word: it faults (log 7). -/
def mtDraw (e : Mt) : Except Fault (Mt × Word32) :=
  let word := if e.cursor = 0 then twist e.word else e.word
  if h : e.cursor.toNat < 624 then
    .ok ({ e with word := word, cursor := BitVec.ofNat 10 ((e.cursor.toNat + 1) % 624) },
      temper word[e.cursor.toNat])
  else .error .mtWordAbsent

/-- `MT.SEED a` (R150). -/
def execMtSeed (a : Word64) (s : State) : Answer :=
  .next (respond 0 { s with mt := mtSeed a })

/-- `MT.NEXT` (R151). -/
def execMtNext (s : State) : Answer :=
  whenSeeded s.mt.seeded s
    (afterDraw (mtDraw s.mt) fun d => .next (respond (datum32 d.2) { s with mt := d.1 }))

end Sys2Proof.Machine
end

