-- ==== Sys2Proof/Machine/Lag.lean ====
section
/-! DEFINITION. The `lag` engine (44_lagged.md): `LAG.SEED` (R200) and `LAG.NEXT` (R201), the control skeleton the source
fixes around the two open functions (R205, R206). The tempering is the `mt` engine's (42_mersenne_twister.md R152). -/

namespace Sys2Proof.Machine

/-- The engine that `LAG.SEED a` constructs (R200-code): the count is 0, so the first draw refills. -/
def lagSeed (a : Word64) : Lag :=
  { toLagBlock := Config.lagInit a, count := 0, seeded := true }

/-- `refill()` (R203-code). -/
def lagRefill (e : Lag) : Lag :=
  { e with toLagBlock := Config.lagMix e.toLagBlock, count := 256 }

/-- The pop (R204): the count goes down by 1 and selects the word; the array is not written. A count that selects no
word faults (log 7). -/
def lagPop (e : Lag) : Except Fault (Lag × Word32) :=
  let count := e.count - 1
  if h : count.toNat < 256 then .ok ({ e with count := count }, e.word[count.toNat])
  else .error .lagWordAbsent

/-- One draw: the engine after it and the numerator (R201-code). -/
def lagDraw (e : Lag) : Except Fault (Lag × Word32) :=
  match lagPop (if e.count = 0 then lagRefill e else e) with
  | .ok (e', raw) => .ok (e', temper raw)
  | .error f => .error f

/-- `LAG.SEED a` (R200). -/
def execLagSeed (a : Word64) (s : State) : Answer :=
  .next (respond 0 { s with lag := lagSeed a })

/-- `LAG.NEXT` (R201). -/
def execLagNext (s : State) : Answer :=
  whenSeeded s.lag.seeded s
    (afterDraw (lagDraw s.lag) fun d => .next (respond (datum32 d.2) { s with lag := d.1 }))

end Sys2Proof.Machine
end

