-- ==== Sys2Proof/Machine/Lcg.lean ====
section
/-! DEFINITION. The `lcg` engine (40_lcg.md): `LCG.SEED` (R110) and `LCG.NEXT` (R111). -/

namespace Sys2Proof.Machine

/-- The multiplier A (00_scope.md R12). -/
def lcgMultiplier : Word32 := 1664525

/-- The increment C (00_scope.md R12). -/
def lcgIncrement : Word32 := 1013904223

/-- The transition of `lcg.state`, modulo 2^32 (R111). -/
def lcgStep (x : Word32) : Word32 := lcgMultiplier * x + lcgIncrement

/-- The engine that `LCG.SEED a` constructs (R110-code). -/
def lcgSeed (a : Word64) : Lcg := { state := low32 a, seeded := true }

/-- One draw: the engine after it and the numerator, which is the new state (R111-code). -/
def lcgDraw (e : Lcg) : Lcg × Word32 :=
  let new := lcgStep e.state
  ({ e with state := new }, new)

/-- `LCG.SEED a` (R110). -/
def execLcgSeed (a : Word64) (s : State) : Answer :=
  .next (respond 0 { s with lcg := lcgSeed a })

/-- `LCG.NEXT` (R111). -/
def execLcgNext (s : State) : Answer :=
  whenSeeded s.lcg.seeded s
    (.next (respond (datum32 (lcgDraw s.lcg).2) { s with lcg := (lcgDraw s.lcg).1 }))

end Sys2Proof.Machine
end

