-- ==== Sys2Proof/Machine/Pcg.lean ====
section
/-! DEFINITION. The `pcg` engine (43_pcg.md): `PCG.SEED` (R180) and `PCG.NEXT` (R181). The increment is stored as given,
odd or even (R183). -/

namespace Sys2Proof.Machine

/-- The multiplier (00_scope.md R12). -/
def pcgMultiplier : Word64 := 6364136223846793005

/-- The transition of `pcg.state`, modulo 2^64 (R181). -/
def pcgStep (old inc : Word64) : Word64 := old * pcgMultiplier + inc

/-- The numerator, from the state BEFORE the advance: the low 32 bits of `xorshifted`, rotated right by the top five
bits (R181-code). -/
def pcgOutput (old : Word64) : Word32 :=
  let xorshifted := ((old >>> 18) ^^^ old) >>> 27
  let rot := (old >>> 59).toNat
  ror32 (low32 xorshifted) rot

/-- The engine that `PCG.SEED a, b` constructs (R180-code). -/
def pcgSeed (a b : Word64) : Pcg := { state := a, inc := b, seeded := true }

/-- One draw: the engine after it and the numerator (R181-code). -/
def pcgDraw (e : Pcg) : Pcg × Word32 :=
  ({ e with state := pcgStep e.state e.inc }, pcgOutput e.state)

/-- `PCG.SEED a, b` (R180). -/
def execPcgSeed (a b : Word64) (s : State) : Answer :=
  .next (respond 0 { s with pcg := pcgSeed a b })

/-- `PCG.NEXT` (R181). -/
def execPcgNext (s : State) : Answer :=
  whenSeeded s.pcg.seeded s
    (.next (respond (datum32 (pcgDraw s.pcg).2) { s with pcg := (pcgDraw s.pcg).1 }))

end Sys2Proof.Machine
end

