-- ==== Sys2Proof/Machine/Xs.lean ====
section
/-! DEFINITION. The `xs` engine (41_xorshift128.md): `XS.SEED` (R130) and `XS.NEXT` (R131). The recurrence is the
source's, with nothing added to the output (R132). -/

namespace Sys2Proof.Machine

/-- The four updates in order, from `(x, y)` to the new pair (R131-code). -/
def xsStep (x y : Word64) : Word64 × Word64 :=
  let x1 := x ^^^ (x <<< 23)
  let y1 := y ^^^ (y >>> 17)
  let x2 := x1 ^^^ y1
  let y2 := y1 ^^^ (y1 <<< 26)
  (x2, y2)

/-- The engine that `XS.SEED a, b` constructs (R130-code). -/
def xsSeed (a b : Word64) : Xs := { x := a, y := b, seeded := true }

/-- One draw: the engine after it and the numerator, which is the new x (R131-code). -/
def xsDraw (e : Xs) : Xs × Word64 :=
  let new := xsStep e.x e.y
  ({ e with x := new.1, y := new.2 }, new.1)

/-- `XS.SEED a, b` (R130). -/
def execXsSeed (a b : Word64) (s : State) : Answer :=
  .next (respond 0 { s with xs := xsSeed a b })

/-- `XS.NEXT` (R131). -/
def execXsNext (s : State) : Answer :=
  whenSeeded s.xs.seeded s
    (.next (respond (datum64 (xsDraw s.xs).2) { s with xs := (xsDraw s.xs).1 }))

end Sys2Proof.Machine
end

