-- ==== Sys2Proof/Machine/Combiner.lean ====
section
/-! DEFINITION. The Combiner (45_combiner.md): `COMBINE.CLK` (R230) and `COMBINE.SEED` (R231) over the common body
(R233). It has no state of its own (10_state.md R50). -/

namespace Sys2Proof.Machine

/-- The sum `S` of the five numerators, exact (R235). -/
def combineSum (nLcg : Word32) (nXs : Word64) (nMt nPcg nLag : Word32) : Nat :=
  nLcg.toNat * 2 ^ 32 + nXs.toNat + nMt.toNat * 2 ^ 32 + nPcg.toNat * 2 ^ 32 + nLag.toNat * 2 ^ 32

/-- The sum in the 67-bit data field, which holds every value it takes (R235). -/
def combineDatum (sum : Nat) : Datum := BitVec.ofNat 67 sum

/-- `combine_body(m)` (R233-code): each engine is seeded from `m` and drawn from once, all five are discarded, and the
sum is the response. The order of the engines does not matter (R234). -/
def combineBody (m : Word64) (s : State) : Answer :=
  let m1 := masterSucc m
  let lcg := lcgDraw (lcgSeed m)
  let xs := xsDraw (xsSeed m m1)
  afterDraw (mtDraw (mtSeed m)) fun mt =>
    let pcg := pcgDraw (pcgSeed m m1)
    afterDraw (lagDraw (lagSeed m)) fun lag =>
      .next (respond (combineDatum (combineSum lcg.2 xs.2 mt.2 pcg.2 lag.2))
        (discardAll { s with lcg := lcg.1, xs := xs.1, mt := mt.1, pcg := pcg.1, lag := lag.1 }))

/-- `COMBINE.CLK b` (R230). -/
def execCombineClk (b : Word64) (s : State) : Answer := combineBody (masterOfClock b) s

/-- `COMBINE.SEED a, b` (R231). -/
def execCombineSeed (a b : Word64) (s : State) : Answer := combineBody (masterOfSeed a b) s

end Sys2Proof.Machine
end

