-- ==== Sys2Proof/Machine/Dispatch.lean ====
section
/-! DEFINITION. One arm per command: its meaning (30_encoding.md R82). -/

namespace Sys2Proof.Machine

def exec (i : Instr) (s : State) : Host.Outcome State Fault Refusal :=
  match i with
  | .lcgSeed a => Sys2Proof.Machine.execLcgSeed a s
  | .lcgNext => Sys2Proof.Machine.execLcgNext s
  | .xsSeed a b => Sys2Proof.Machine.execXsSeed a b s
  | .xsNext => Sys2Proof.Machine.execXsNext s
  | .mtSeed a => Sys2Proof.Machine.execMtSeed a s
  | .mtNext => Sys2Proof.Machine.execMtNext s
  | .pcgSeed a b => Sys2Proof.Machine.execPcgSeed a b s
  | .pcgNext => Sys2Proof.Machine.execPcgNext s
  | .lagSeed a => Sys2Proof.Machine.execLagSeed a s
  | .lagNext => Sys2Proof.Machine.execLagNext s
  | .combineClk b => Sys2Proof.Machine.execCombineClk b s
  | .combineSeed a b => Sys2Proof.Machine.execCombineSeed a b s

end Sys2Proof.Machine
end

