-- ==== Sys2Proof/Machine/Command.lean ====
section
/-! DEFINITION. One move of the host's. A command word is decoded first (60_exceptions.md R255) and performed as one
atomic transition (20_memory.md R65, R68); a word that spells no command is answered `IllegalCommand` (R252). -/

namespace Sys2Proof.Machine

/-- The block performs the command word `w`. -/
def performCommand (w : CommandWord) (s : State) : Answer :=
  match decode w with
  | .ok i => exec i s
  | .error _ => .next (raise .illegalCommand s)

/-- The block meets one move of the host's (70_reset_and_hazards.md R289). -/
def performMove (m : HostMove) (s : State) : Answer :=
  match m with
  | .command w => performCommand w s
  | .reset => .next (applyReset s)

end Sys2Proof.Machine
end

