-- ==== Sys2Proof/Machine/Step.lean ====
section
/-! DEFINITION. One step: the host's next move is taken and performed; with no move pending the block is idle (log 5). -/

namespace Sys2Proof.Machine

def step (s : State) : Host.Outcome State Fault Refusal :=
  match fetchMove s with
  | none => .next (idle s)
  | some (m, s') => performMove m s'

/-- The host issues, as its very next move, the command word that spec/opcode_table.json numbers `w` (log 5, log 13). -/
def State.withFetchWord (s : State) (nbits w : Nat) : State := placeCommand (tableWord nbits w) s

end Sys2Proof.Machine
end

