-- ==== Sys2Proof/Machine/Assembly.lean ====
section
/-! DEFINITION. Assembly text (30_encoding.md R87) with the pseudo-command `COMBINE` (R88): notation of the host's, outside
the block. What R87 does not say of white space and of letter case is fixed in log 15. -/

namespace Sys2Proof.Machine

/-- The value of a digit in the given base (10 or 16). -/
def digitValue (base : Nat) (c : Char) : Option Nat :=
  let v : Option Nat :=
    if '0' ≤ c ∧ c ≤ '9' then some (c.toNat - '0'.toNat)
    else if 'a' ≤ c ∧ c ≤ 'f' then some (c.toNat - 'a'.toNat + 10)
    else if 'A' ≤ c ∧ c ≤ 'F' then some (c.toNat - 'A'.toNat + 10)
    else none
  v.filter (· < base)

/-- The value of a string of digits after those read so far. -/
def digitsFrom (base acc : Nat) : List Char → Option Nat
  | [] => some acc
  | c :: cs =>
    match digitValue base c with
    | some d => digitsFrom base (acc * base + d) cs
    | none => none

/-- A natural literal, decimal or `0x` hexadecimal, of at least one digit (R87). -/
def naturalLiteral : List Char → Option Nat
  | '0' :: 'x' :: c :: cs => digitsFrom 16 0 (c :: cs)
  | c :: cs => digitsFrom 10 0 (c :: cs)
  | [] => none

/-- An integer literal, with an optional leading `-` (R87). -/
def integerLiteral : List Char → Option Int
  | '-' :: cs => (naturalLiteral cs).map fun n => -(n : Int)
  | cs => (naturalLiteral cs).map fun n => (n : Int)

/-- One written operand: an integer, or the `none` of `COMBINE` (R87, R88). -/
def writtenOperand (cs : List Char) : Option WrittenOperand :=
  if cs = ['n', 'o', 'n', 'e'] then some .absent else (integerLiteral cs).map .int

/-- The text without the blanks around it. -/
def trimBlanks (cs : List Char) : List Char :=
  ((cs.dropWhile (·.isWhitespace)).reverse.dropWhile (·.isWhitespace)).reverse

/-- The operands of a line, separated by commas (R87); a line with nothing after its mnemonic has none. -/
def writtenOperands (cs : List Char) : Option (List WrittenOperand) :=
  let cs := trimBlanks cs
  if cs = [] then some [] else (cs.splitOn ',').mapM fun t => writtenOperand (trimBlanks t)

/-- The command that a mnemonic and its operands spell (R82, R87, R88): an integer operand is reduced modulo 2^64. -/
def commandOf (mnemonic : String) (ops : List WrittenOperand) : Option Instr :=
  match mnemonic, ops with
  | "LCG.SEED", [.int v] => some (.lcgSeed (operandOfInt v))
  | "LCG.NEXT", [] => some .lcgNext
  | "XS.SEED", [.int x, .int y] => some (.xsSeed (operandOfInt x) (operandOfInt y))
  | "XS.NEXT", [] => some .xsNext
  | "MT.SEED", [.int v] => some (.mtSeed (operandOfInt v))
  | "MT.NEXT", [] => some .mtNext
  | "PCG.SEED", [.int v, .int inc] => some (.pcgSeed (operandOfInt v) (operandOfInt inc))
  | "PCG.NEXT", [] => some .pcgNext
  | "LAG.SEED", [.int v] => some (.lagSeed (operandOfInt v))
  | "LAG.NEXT", [] => some .lagNext
  | "COMBINE.CLK", [.int t] => some (.combineClk (operandOfInt t))
  | "COMBINE.SEED", [.int u, .int t] => some (.combineSeed (operandOfInt u) (operandOfInt t))
  | "COMBINE", [.absent, .int t] => some (.combineClk (operandOfInt t))
  | "COMBINE", [.int u, .int t] => some (.combineSeed (operandOfInt u) (operandOfInt t))
  | _, _ => none

/-- One line: its command, or nothing where the line is blank or a comment (R87). -/
def assembleLine (line : List Char) : Except AsmError (Option Instr) :=
  let text := trimBlanks (line.takeWhile (· ≠ ';'))
  if text = [] then .ok none
  else
    let mnemonic := String.ofList (text.takeWhile (fun c => !c.isWhitespace))
    match writtenOperands (text.dropWhile (fun c => !c.isWhitespace)) with
    | none => .error .badOperand
    | some ops =>
      match commandOf mnemonic ops with
      | none => .error .badCommand
      | some i => .ok (some i)

/-- A program: a sequence of commands, one per line (R87). -/
def assemble (text : String) : Except AsmError (List Instr) := do
  let lines ← (text.toList.splitOn '\n').mapM assembleLine
  pure (lines.filterMap id)

/-- The mnemonic of a command (R82). -/
def mnemonicOf : Instr → String
  | .lcgSeed _ => "LCG.SEED"
  | .lcgNext => "LCG.NEXT"
  | .xsSeed _ _ => "XS.SEED"
  | .xsNext => "XS.NEXT"
  | .mtSeed _ => "MT.SEED"
  | .mtNext => "MT.NEXT"
  | .pcgSeed _ _ => "PCG.SEED"
  | .pcgNext => "PCG.NEXT"
  | .lagSeed _ => "LAG.SEED"
  | .lagNext => "LAG.NEXT"
  | .combineClk _ => "COMBINE.CLK"
  | .combineSeed _ _ => "COMBINE.SEED"

/-- A 64-bit operand as a written integer. -/
def writtenWord (a : Word64) : WrittenOperand := .int (a.toNat : Int)

/-- The operands of a command as written integers, in the order of R87. -/
def operandsOf : Instr → List WrittenOperand
  | .lcgSeed a => [writtenWord a]
  | .lcgNext => []
  | .xsSeed a b => [writtenWord a, writtenWord b]
  | .xsNext => []
  | .mtSeed a => [writtenWord a]
  | .mtNext => []
  | .pcgSeed a b => [writtenWord a, writtenWord b]
  | .pcgNext => []
  | .lagSeed a => [writtenWord a]
  | .lagNext => []
  | .combineClk b => [writtenWord b]
  | .combineSeed a b => [writtenWord a, writtenWord b]

end Sys2Proof.Machine
end

