-- ==== Sys2Proof/Machine/Response.lean ====
section
/-! DEFINITION. Response words (30_encoding.md R81, R90) and the rational value a response stands for (00_scope.md R22;
30_encoding.md R89). No floating-point number is formed: a float is the host's own `TO_FLOAT` (R22; log 10). -/

namespace Sys2Proof.Machine

/-- The status codes (R81, R90). -/
def statusCode : Status → BitVec 2
  | .ok => 0
  | .notSeeded => 1
  | .illegalCommand => 2

/-- The response word: `status` in bits [1:0], `data` in bits [68:2] (R81). -/
def encodeResponse (r : Response) : ResponseWord := r.data ++ statusCode r.status

/-- What the host reads in a response word; a word with status 3 is no response of the block's (R90). -/
def decodeResponse (w : ResponseWord) : Option Response :=
  let data : Datum := w.extractLsb' 2 67
  match (w.extractLsb' 0 2).toNat with
  | 0 => some { status := .ok, data := data }
  | 1 => some { status := .notSeeded, data := data }
  | 2 => some { status := .illegalCommand, data := data }
  | _ => none

/-- The denominator of the command's numerator; a `SEED` has none (R89). For `PCG.NEXT` it is 2^32 (43_pcg.md R182). -/
def denominatorOf : Instr → Option Nat
  | .lcgSeed _ => none
  | .lcgNext => some (2 ^ 32)
  | .xsSeed _ _ => none
  | .xsNext => some (2 ^ 64)
  | .mtSeed _ => none
  | .mtNext => some (2 ^ 32)
  | .pcgSeed _ _ => none
  | .pcgNext => some (2 ^ 32)
  | .lagSeed _ => none
  | .lagNext => some (2 ^ 32)
  | .combineClk _ => some (5 * 2 ^ 64)
  | .combineSeed _ _ => some (5 * 2 ^ 64)

/-- The exact rational that an `OK` response to the command stands for (R22, R89); an error has no value. -/
def responseValue (i : Instr) (r : Response) : Option ℚ :=
  match r.status, denominatorOf i with
  | .ok, some d => some ((r.data.toNat : ℚ) / (d : ℚ))
  | _, _ => none

end Sys2Proof.Machine
end

