-- ==== Sys2Proof/Safety.lean ====
section
/-! DEFINITION. The terms in which claims about the block are stated: the states its rules allow, what two states share,
the responses, and sequences of commands (20_memory.md R68: a claim quantifies over command sequences). -/

namespace Sys2Proof.Machine

/-- A seeded `mt` engine has a cursor in 0 to 623 (10_state.md R41) and a seeded `lag` engine a count in 0 to 255 (R48).
An engine that is not seeded may hold anything (R53). -/
def Legal (s : State) : Prop :=
  (s.mt.seeded = true → s.mt.cursor.toNat ≤ 623) ∧ (s.lag.seeded = true → s.lag.count.toNat ≤ 255)

/-- Some bit of the array that the twist looks at is 1: the top bit of word 0, or any bit of a later word. -/
def latticeAlive (w : MtWords) : Prop :=
  w[0].getLsbD 31 = true ∨ ∃ i : Fin 624, 0 < i.val ∧ w[i] ≠ 0

/-- A seeded `mt` engine does not stand at the all-zero array (42_mersenne_twister.md R157). -/
def TwisterAlive (s : State) : Prop := s.mt.seeded = true → latticeAlive s.mt.word

/-- Engine `e` is the same in both states, its flag included. -/
def sameEngine (e : Engine) (s t : State) : Prop :=
  match e with
  | .lcg => s.lcg = t.lcg
  | .xs => s.xs = t.xs
  | .mt => s.mt = t.mt
  | .pcg => s.pcg = t.pcg
  | .lag => s.lag = t.lag

/-- The seventeen elements of 10_state.md R30 are the same in both states. -/
def sameEngines (s t : State) : Prop := ∀ e : Engine, sameEngine e s t

/-- No engine is seeded, as after a reset (10_state.md R53) and after a `COMBINE` (45_combiner.md R236). -/
def AllUnseeded (s : State) : Prop := ∀ e : Engine, seededFlag e s = false

/-- The response given last. -/
def lastResponse (s : State) : Option Response := s.responses.getLast?

/-- The commands performed in order, each to completion (20_memory.md R68). -/
def runCommands : List Instr → State → Answer
  | [], s => .next s
  | i :: is, s =>
    match exec i s with
    | .next t => runCommands is t
    | .fault f => .fault f
    | .refused r => .refused r

/-- The state in which the host is about to issue the words `ws` and nothing more. -/
def issuing (ws : List CommandWord) (s : State) : State := { s with moves := ws.map .command }

/-- The word is a command of engine `e`, or a `COMBINE`, which seeds and draws from every engine. -/
def touches (e : Engine) (w : CommandWord) : Bool :=
  match decode w with
  | .ok i => engineOf i == some e || engineOf i == none
  | .error _ => false

/-- The ten commands of 45_combiner.md R237 for the master seed `m`. -/
def tenCommands (m : Word64) : List Instr :=
  [.lcgSeed m, .xsSeed m (m + 1), .mtSeed m, .pcgSeed m (m + 1), .lagSeed m,
    .lcgNext, .xsNext, .mtNext, .pcgNext, .lagNext]

/-- 45_combiner.md R237 and R236 for one `COMBINE`: it answers the weighted sum of the five data that the ten commands
answer, and leaves the engines as the ten commands do but for the five flags, which it clears. That it keeps the other elements of the
discarded engines is the model's choice (log 8): R236 lets a model treat them as unspecified. -/
def CombinesAs (i : Instr) (m : Word64) (s : State) : Prop :=
  ∃ (u : State) (nLcg nXs nMt nPcg nLag sum : Datum),
    runCommands (tenCommands m) s = .next u ∧
    u.responses = s.responses ++
      [⟨.ok, 0⟩, ⟨.ok, 0⟩, ⟨.ok, 0⟩, ⟨.ok, 0⟩, ⟨.ok, 0⟩,
        ⟨.ok, nLcg⟩, ⟨.ok, nXs⟩, ⟨.ok, nMt⟩, ⟨.ok, nPcg⟩, ⟨.ok, nLag⟩] ∧
    sum.toNat = nLcg.toNat * 2 ^ 32 + nXs.toNat + (nMt.toNat + nPcg.toNat + nLag.toNat) * 2 ^ 32 ∧
    exec i s = .next
      { s with
        lcg := { u.lcg with seeded := false }
        xs := { u.xs with seeded := false }
        mt := { u.mt with seeded := false }
        pcg := { u.pcg with seeded := false }
        lag := { u.lag with seeded := false }
        responses := s.responses ++ [⟨.ok, sum⟩] }

end Sys2Proof.Machine
end

