-- ==== Sys2Proof/Certificates/Slice0/Obligations.lean ====
section
/-! DEFINITION. The statements for the provers. Each says which rule of spec/ it formalises. A state equation `exec i s =
.next { s with … }` is also the instruction's frame: every field not named is unchanged. "The response" is the one put at
the end of `responses`; that field, `moves` and `resets` are the model's own (log 2, 5, 6), so a clause about them is the
model's form of R21 and R289. "A law" is a rule that the spec itself derives from other rules. -/

open Sys2Proof Sys2Proof.Machine

/-! ### Encoding -/

/-- R80, R82, R83: decoding the word of a command gives the command back, with every operand. -/
def Obligations.EncodeThenDecode : Prop :=
  ∀ i : Instr, decode (encode i) = .ok i

/-- R82, R84: a word whose ignored bits are 0 and whose opcode spells a command is the word of exactly the command it
decodes to, and that command is well-formed; the word of a well-formed command has its ignored bits 0. -/
def Obligations.CanonicalWordsAreEncodings : Prop :=
  (∀ w : CommandWord, (opField w).toNat < 12 → w &&& usedBits (opField w) = w →
    ∃ i, decode w = .ok i ∧ encode i = w ∧ i.wellFormed = true) ∧
  (∀ i : Instr, i.wellFormed = true → encode i &&& usedBits (opcodeOf i) = encode i)

/-- R80: the word as a number, written by the encoder and read by the decoder's fields. -/
def Obligations.CommandWordAsNumber : Prop :=
  (∀ i : Instr, (encode i).toNat
    = (opcodeOf i).toNat + (operandA i).toNat * 2 ^ 4 + (operandB i).toNat * 2 ^ 68) ∧
  (∀ w : CommandWord, w.toNat = (opField w).toNat + (aField w).toNat * 2 ^ 4 + (bField w).toNat * 2 ^ 68)

/-- R84: two command words that agree on the bits their opcode uses have the same effect and the same response. -/
def Obligations.IgnoredBitsChangeNothing : Prop :=
  ∀ (s : State) (v w : CommandWord) (rest : List HostMove),
    v &&& usedBits (opField w) = w &&& usedBits (opField w) →
    step { s with moves := .command v :: rest } = step { s with moves := .command w :: rest }

/-- R85, R252: the opcodes 0xC to 0xF, and they alone, are answered `IllegalCommand`, with data 0 and no state element
changed, whatever the operands hold; every other word is one of the twelve commands. -/
def Obligations.IllegalCommandExactly : Prop :=
  (∀ (s : State) (w : CommandWord) (rest : List HostMove),
    s.moves = .command w :: rest → 12 ≤ (opField w).toNat →
    step s = .next { s with moves := rest, responses := s.responses ++ [⟨.illegalCommand, 0⟩] }) ∧
  (∀ w : CommandWord, (opField w).toNat < 12 → ∃ i, decode w = .ok i ∧ opcodeOf i = opField w) ∧
  (∀ (i : Instr) (s t : State) (r : Response),
    exec i s = .next t → t.responses = s.responses ++ [r] → r.status ≠ .illegalCommand)

/-- Command words of 95_test_vectors.md Part 3, one of each unit, decode to the commands they stand for. -/
def Obligations.WrittenWordsDecode : Prop :=
  decode 0x0000000000000000FFFFFFFFFFFFFFFF0 = .ok (.lcgSeed 0xFFFFFFFFFFFFFFFF) ∧
  decode 0x000000000000000200000000000000012 = .ok (.xsSeed 1 2) ∧
  decode 0x000000000000000000000000000015714 = .ok (.mtSeed 5489) ∧
  decode 0x0000000000000036000000000000002A6 = .ok (.pcgSeed 42 54) ∧
  decode 0x000000000000000000000000000000078 = .ok (.lagSeed 7) ∧
  decode 0x00000000000003E80000000000000003B = .ok (.combineSeed 3 1000) ∧
  decode 0x00000000000003E80000000000000123A = .ok (.combineClk 1000)

/-- R90, with the layout of R81: the three codes; the status field of a response word is never 3, and a word with
status 3 is no response. -/
def Obligations.StatusCodes : Prop :=
  (statusCode .ok).toNat = 0 ∧ (statusCode .notSeeded).toNat = 1 ∧ (statusCode .illegalCommand).toNat = 2 ∧
  (∀ r : Response, (encodeResponse r).toNat % 4 = (statusCode r.status).toNat ∧ (encodeResponse r).toNat % 4 ≠ 3) ∧
  (∀ w : ResponseWord, w.toNat % 4 = 3 → decodeResponse w = none)

/-- R81: the response word as a number, and reading it gives the response back. -/
def Obligations.ResponseWordAsNumber : Prop :=
  ∀ r : Response, (encodeResponse r).toNat = (statusCode r.status).toNat + r.data.toNat * 2 ^ 2 ∧
    decodeResponse (encodeResponse r) = some r

/-- R82, R87, R88: a command's mnemonic with its operands written as integers spells the command; an integer stands for
its residue modulo 2^64, and the pseudo-command `COMBINE` is one of the two forms. -/
def Obligations.WrittenCommandsSpell : Prop :=
  (∀ i : Instr, commandOf (mnemonicOf i) (operandsOf i) = some i) ∧
  (∀ (v : Int) (n : Nat), (n : Int) = v % 2 ^ 64 →
    commandOf "LCG.SEED" [.int v] = some (.lcgSeed (BitVec.ofNat 64 n))) ∧
  (∀ v : Int, commandOf "COMBINE" [.absent, .int v] = commandOf "COMBINE.CLK" [.int v]) ∧
  (∀ u v : Int, commandOf "COMBINE" [.int u, .int v] = commandOf "COMBINE.SEED" [.int u, .int v])

/-! ### The step -/

/-- R255: a command word is decoded first, and the step is its command's meaning once the move is taken. -/
def Obligations.StepRunsDecodedCommand : Prop :=
  ∀ (s : State) (w : CommandWord) (rest : List HostMove) (i : Instr),
    s.moves = .command w :: rest → decode w = .ok i → step s = exec i { s with moves := rest }

/-- How a word of spec/opcode_table.json comes to run (log 5): placed as the host's next move, it is what the next step
performs, and nothing else has changed. -/
def Obligations.PlacedWordRuns : Prop :=
  ∀ (s : State) (nbits w : Nat) (i : Instr),
    decodeTableWord nbits w = some i → step (s.withFetchWord nbits w) = exec i s

/-- The model's own convention for a block with no move pending (log 5), after R261: it keeps all state. -/
def Obligations.IdleKeepsState : Prop :=
  ∀ s : State, s.moves = [] → step s = .next s

/-- R53, R280: a reset move clears the five flags, takes the move and gives no response (log 14); the values of the other
elements are free. The state right after reset has the five flags 0 too. -/
def Obligations.ResetClearsFlags : Prop :=
  AllUnseeded State.reset ∧
  ∀ (s : State) (rest : List HostMove), s.moves = .reset :: rest →
    ∃ t, step s = .next t ∧ AllUnseeded t ∧ t.moves = rest ∧ t.responses = s.responses

/-! ### `lcg` -/

/-- R110: `LCG.SEED a` loads `a mod 2^32`, sets the flag and answers (OK, 0). -/
def Obligations.LcgSeedLoads : Prop :=
  ∀ (a : Word64) (s : State),
    exec (.lcgSeed a) s = .next
      { s with lcg := { state := BitVec.ofNat 32 (a.toNat % 2 ^ 32), seeded := true }
               responses := s.responses ++ [⟨.ok, 0⟩] }

/-- R111: `LCG.NEXT` on a seeded engine. -/
def Obligations.LcgNextSteps : Prop :=
  ∀ s : State, s.lcg.seeded = true →
    let new := (1664525 * s.lcg.state.toNat + 1013904223) % 2 ^ 32
    exec .lcgNext s = .next
      { s with lcg := { state := BitVec.ofNat 32 new, seeded := true }
               responses := s.responses ++ [⟨.ok, BitVec.ofNat 67 new⟩] }

/-- R112, a law: for every integer seed, drawing after a reduced seeding gives what the unreduced integer would. -/
def Obligations.LcgSeedReductionLosesNothing : Prop :=
  ∀ (v : Int) (s : State), ∃ t d,
    runCommands [.lcgSeed (operandOfInt v), .lcgNext] s = .next t ∧
    t.responses = s.responses ++ [⟨.ok, 0⟩, ⟨.ok, d⟩] ∧
    (d.toNat : Int) = (1664525 * v + 1013904223) % 2 ^ 32 ∧
    (d.toNat : Int) = (1664525 * (v % 2 ^ 32) + 1013904223) % 2 ^ 32

/-- R113, a law: the transition of `LCG.NEXT` is total and a bijection of the 32-bit words, and no state is absorbing. -/
def Obligations.LcgTransitionBijective : Prop :=
  (∀ (s : State) (y : Word32), ∃! x : Word32, ∃ t,
    exec .lcgNext { s with lcg := { state := x, seeded := true } } = .next t ∧ t.lcg.state = y) ∧
  (∀ (s : State), s.lcg.seeded = true → ∃ t, exec .lcgNext s = .next t ∧ t.lcg.state ≠ s.lcg.state)

/-- R114, a law: whatever commands of other engines and whatever illegal words stand between, the k-th `LCG.NEXT` after
`LCG.SEED a` answers `s_k`. -/
def Obligations.LcgKthDraw : Prop :=
  ∀ (a : Word64) (s : State) (w0 w1 : CommandWord) (ws : List CommandWord),
    Legal s → decode w0 = .ok (.lcgSeed a) → decode w1 = .ok .lcgNext →
    (∀ w ∈ ws, decode w = .ok .lcgNext ∨ touches .lcg w = false) →
    let k := ws.countP (fun w => touches .lcg w) + 1
    let sk := (fun x : Nat => (1664525 * x + 1013904223) % 2 ^ 32)^[k] (a.toNat % 2 ^ 32)
    ∃ t, core.run (ws.length + 2) (issuing (w0 :: ws ++ [w1]) s) = .next t ∧
      t.lcg = { state := BitVec.ofNat 32 sk, seeded := true } ∧
      lastResponse t = some ⟨.ok, BitVec.ofNat 67 sk⟩

/-! ### `xs` -/

/-- R130: `XS.SEED a, b` loads the two words as they are. -/
def Obligations.XsSeedLoads : Prop :=
  ∀ (a b : Word64) (s : State),
    exec (.xsSeed a b) s = .next
      { s with xs := { x := a, y := b, seeded := true }
               responses := s.responses ++ [⟨.ok, 0⟩] }

/-- R131: `XS.NEXT` on a seeded engine: the four updates in order, on naturals. -/
def Obligations.XsNextSteps : Prop :=
  ∀ s : State, s.xs.seeded = true →
    let x1 := s.xs.x.toNat ^^^ (s.xs.x.toNat * 2 ^ 23 % 2 ^ 64)
    let y1 := s.xs.y.toNat ^^^ (s.xs.y.toNat / 2 ^ 17)
    let x2 := x1 ^^^ y1
    let y2 := y1 ^^^ (y1 * 2 ^ 26 % 2 ^ 64)
    x2 < 2 ^ 64 ∧ y2 < 2 ^ 64 ∧
    exec .xsNext s = .next
      { s with xs := { x := BitVec.ofNat 64 x2, y := BitVec.ofNat 64 y2, seeded := true }
               responses := s.responses ++ [⟨.ok, BitVec.ofNat 67 x2⟩] }

/-- R133 (a) and (b), a law: the zero pair is a fixed point that answers 0; the new `y` depends on `y` alone; from `y = 0` it
stays 0 and `x` follows its left shift alone. -/
def Obligations.XsZeroCases : Prop :=
  (∀ s : State, s.xs = { x := 0, y := 0, seeded := true } →
    exec .xsNext s = .next { s with responses := s.responses ++ [⟨.ok, 0⟩] }) ∧
  (∀ (s t s' t' : State), s.xs.y = t.xs.y → s.xs.seeded = true → t.xs.seeded = true →
    exec .xsNext s = .next s' → exec .xsNext t = .next t' → s'.xs.y = t'.xs.y) ∧
  (∀ s : State, s.xs.seeded = true → s.xs.y = 0 → ∃ t, exec .xsNext s = .next t ∧
    t.xs.y = 0 ∧ t.xs.x.toNat = s.xs.x.toNat ^^^ (s.xs.x.toNat * 2 ^ 23 % 2 ^ 64))

/-- R134, a law: the transition of `XS.NEXT` is total and a bijection of the pairs of 64-bit words. -/
def Obligations.XsTransitionBijective : Prop :=
  ∀ (s : State) (x y : Word64), ∃! p : Word64 × Word64, ∃ t,
    exec .xsNext { s with xs := { x := p.1, y := p.2, seeded := true } } = .next t ∧ t.xs.x = x ∧ t.xs.y = y

/-! ### `mt` -/

/-- R150: `MT.SEED a` fills the array from the seed, word by word, sets the cursor to 0 and the flag, and answers
(OK, 0); nothing else changes. -/
def Obligations.MtSeedFills : Prop :=
  ∀ (a : Word64) (s : State), ∃ word : MtWords,
    exec (.mtSeed a) s = .next
      { s with mt := { word := word, cursor := 0, seeded := true }
               responses := s.responses ++ [⟨.ok, 0⟩] } ∧
    word[0].toNat = a.toNat % 2 ^ 32 ∧
    ∀ (i : Nat) (h : i + 1 < 624),
      word[i + 1].toNat = (1812433253 * (word[i].toNat ^^^ (word[i].toNat / 2 ^ 30)) + (i + 1)) % 2 ^ 32

/-- R151: `MT.NEXT` on a seeded engine whose cursor is legal: it twists exactly when the cursor is 0, answers the
tempered word at the cursor, and advances the cursor modulo 624; nothing else changes. -/
def Obligations.MtNextDraws : Prop :=
  ∀ s : State, s.mt.seeded = true → (h : s.mt.cursor.toNat < 624) →
    let word := if s.mt.cursor.toNat = 0 then twist s.mt.word else s.mt.word
    exec .mtNext s = .next
      { s with mt := { word := word
                       cursor := BitVec.ofNat 10 ((s.mt.cursor.toNat + 1) % 624)
                       seeded := true }
               responses := s.responses ++ [⟨.ok, BitVec.ofNat 67 (temper (word[s.mt.cursor.toNat]'h)).toNat⟩] }

/-- R153, R154: what each word of a twisted array is made of: old words before index 227, and from there on words this
same twist has already written; word 623 is made with the new word 0. `mix` is the body of block R153-code on naturals. -/
def Obligations.TwistOldAndNewWords : Prop :=
  let mix := fun (cur nxt far : Word32) =>
    let y := (cur.toNat / 2 ^ 31) * 2 ^ 31 + nxt.toNat % 2 ^ 31
    far.toNat ^^^ (y / 2) ^^^ (if y % 2 = 1 then 0x9908B0DF else 0)
  ∀ w : MtWords,
    (∀ (i : Nat) (h : i + 397 < 624), (twist w)[i].toNat = mix w[i] w[i + 1] w[i + 397]) ∧
    (∀ (i : Nat) (h : i + 228 < 624), (twist w)[i + 227].toNat = mix w[i + 227] w[i + 228] (twist w)[i]) ∧
    (twist w)[623].toNat = mix w[623] (twist w)[0] (twist w)[396]

/-- R152: the four steps of `temper` on naturals, that it is a bijection, and its printed examples. -/
def Obligations.TemperSteps : Prop :=
  (∀ v : Word32,
    let y1 := v.toNat ^^^ (v.toNat / 2 ^ 11)
    let y2 := y1 ^^^ (y1 * 2 ^ 7 &&& 0x9D2C5680)
    let y3 := y2 ^^^ (y2 * 2 ^ 15 &&& 0xEFC60000)
    (temper v).toNat = y3 ^^^ (y3 / 2 ^ 18)) ∧
  Function.Bijective temper ∧ temper 0 = 0 ∧
  temper 0x00000001 = 0x00400091 ∧ temper 0xFFFFFFFF = 0x6FE01BF8 ∧
  temper 0x80000000 = 0x88102204 ∧ temper 0x12345678 = 0x2B7E4A2D

/-- R155, R42, a law: the n-th `MT.NEXT` after `MT.SEED` twists exactly for n = 624*k + 1, so the array has been twisted ⌈n/624⌉
times, and the draws go through each twisted block once, in order. -/
def Obligations.MtTwistSchedule : Prop :=
  ∀ (a : Word64) (s : State) (w0 w1 : CommandWord) (n : Nat),
    decode w0 = .ok (.mtSeed a) → decode w1 = .ok .mtNext →
    ∃ t, core.run (n + 1) (issuing (w0 :: List.replicate n w1) s) = .next t ∧
      t.mt.word = twist^[(n + 623) / 624] (mtSeed a).word ∧ t.mt.cursor.toNat = n % 624 ∧ t.mt.seeded = true ∧
      (1 ≤ n → lastResponse t = some ⟨.ok, datum32 (temper
        (t.mt.word[(n - 1) % 624]'(Nat.mod_lt _ (by decide))))⟩)

/-- R157, a law: no step takes a seeded `mt` engine to the all-zero array: not a seeding, and not a twist. -/
def Obligations.StepKeepsTwisterAlive : Prop :=
  ∀ s t : State, TwisterAlive s → step s = .next t → TwisterAlive t

/-! ### `pcg` -/

/-- R180, R183: `PCG.SEED a, b` loads both words as they are, an even increment too. -/
def Obligations.PcgSeedLoads : Prop :=
  ∀ (a b : Word64) (s : State),
    exec (.pcgSeed a b) s = .next
      { s with pcg := { state := a, inc := b, seeded := true }
               responses := s.responses ++ [⟨.ok, 0⟩] }

/-- R181: `PCG.NEXT` on a seeded engine: the new state, and the numerator from the old one. -/
def Obligations.PcgNextSteps : Prop :=
  ∀ s : State, s.pcg.seeded = true →
    let old := s.pcg.state.toNat
    let xorshifted := ((old / 2 ^ 18) ^^^ old) / 2 ^ 27
    let rot := old / 2 ^ 59
    rot ≤ 31 ∧
    exec .pcgNext s = .next
      { s with pcg := { state := BitVec.ofNat 64 ((old * 6364136223846793005 + s.pcg.inc.toNat) % 2 ^ 64)
                        inc := s.pcg.inc
                        seeded := true }
               responses := s.responses ++
                 [⟨.ok, BitVec.ofNat 67 (ror32 (BitVec.ofNat 32 (xorshifted % 2 ^ 32)) rot).toNat⟩] }

/-- R17: the rotation, by its formula, by its bits, and by its printed examples. -/
def Obligations.RotateRight32 : Prop :=
  (∀ v : Word32, ror32 v 0 = v) ∧
  (∀ (v : Word32) (r : Nat), 1 ≤ r → r ≤ 31 →
    (ror32 v r).toNat = (v.toNat / 2 ^ r) ||| (v.toNat * 2 ^ (32 - r) % 2 ^ 32)) ∧
  (∀ (v : Word32) (r i : Nat), r ≤ 31 → i < 32 → (ror32 v r).getLsbD i = v.getLsbD ((i + r) % 32)) ∧
  ror32 0x80000001 1 = 0xC0000000 ∧ ror32 0x80000001 31 = 0x00000003 ∧
  ror32 0x12345678 4 = 0x81234567 ∧ ror32 0x12345678 0 = 0x12345678

/-- R184, a law: for every increment the transition of `PCG.NEXT` is total and a bijection of the 64-bit words, and the answer
depends on the old state alone. -/
def Obligations.PcgTransitionBijective : Prop :=
  (∀ (s : State) (inc y : Word64), ∃! x : Word64, ∃ t,
    exec .pcgNext { s with pcg := { state := x, inc := inc, seeded := true } } = .next t ∧ t.pcg.state = y) ∧
  (∀ (s s' : State), s.pcg.seeded = true → s'.pcg.seeded = true → s.pcg.state = s'.pcg.state →
    ∃ t t' r, exec .pcgNext s = .next t ∧ exec .pcgNext s' = .next t' ∧
      t.responses = s.responses ++ [r] ∧ t'.responses = s'.responses ++ [r])

/-- R181 (corner cases), R286 (d): the first draw after seeding a state below 2^27 is 0, whatever the increment. -/
def Obligations.PcgSmallSeedDrawsZero : Prop :=
  ∀ (a b : Word64) (s : State), a.toNat < 2 ^ 27 → ∃ t,
    runCommands [.pcgSeed a b, .pcgNext] s = .next t ∧ t.responses = s.responses ++ [⟨.ok, 0⟩, ⟨.ok, 0⟩]

/-- R44: a command that neither seeds the `pcg` engine nor combines leaves the increment as it was, `PCG.NEXT` among
them. -/
def Obligations.PcgIncrementFixed : Prop :=
  ∀ (i : Instr) (s t : State), seedsEngine i ≠ some .pcg → engineOf i ≠ none → exec i s = .next t →
    t.pcg.inc = s.pcg.inc

/-! ### `lag` -/

/-- R200: `LAG.SEED a` stores what the open function LAG_INIT gives, sets the count to 0 and the flag. -/
def Obligations.LagSeedLoads : Prop :=
  ∀ (a : Word64) (s : State),
    exec (.lagSeed a) s = .next
      { s with lag := { toLagBlock := Config.lagInit a, count := 0, seeded := true }
               responses := s.responses ++ [⟨.ok, 0⟩] }

/-- R201, R203: `LAG.NEXT` on a seeded engine whose count is 0 refills by the open function LAG_MIX before it pops word
255. -/
def Obligations.LagNextRefills : Prop :=
  ∀ s : State, s.lag.seeded = true → s.lag.count.toNat = 0 →
    let block := Config.lagMix s.lag.toLagBlock
    exec .lagNext s = .next
      { s with lag := { toLagBlock := block, count := BitVec.ofNat 9 255, seeded := true }
               responses := s.responses ++ [⟨.ok, BitVec.ofNat 67 (temper block.word[255]).toNat⟩] }

/-- R201, R204: `LAG.NEXT` on a seeded engine whose count is 1 to 255 writes nothing but the count, which goes down by 1
and selects the word. That a count of 256, which R48 leaves in no engine between commands, pops word 255 by the same rule
is the model's deduction (log 7), not R201's or R204's own word. -/
def Obligations.LagNextPops : Prop :=
  ∀ (s : State) (c : Nat) (h : c < 256), s.lag.seeded = true → s.lag.count.toNat = c + 1 →
    exec .lagNext s = .next
      { s with lag := { toLagBlock := s.lag.toLagBlock, count := BitVec.ofNat 9 c, seeded := true }
               responses := s.responses ++ [⟨.ok, BitVec.ofNat 67 (temper s.lag.word[c]).toNat⟩] }

/-- R208, a law: the schedule of refills and pops after `LAG.SEED`, for any open functions: the n-th `LAG.NEXT` ends with the
count at 255 - ((n-1) mod 256) and answers that word, tempered, of the block that ⌊(n-1)/256⌋ + 1 refills give. -/
def Obligations.LagRefillSchedule : Prop :=
  ∀ (a : Word64) (s : State) (w0 w1 : CommandWord),
    decode w0 = .ok (.lagSeed a) → decode w1 = .ok .lagNext →
    (∃ t, core.run 1 (issuing [w0] s) = .next t ∧ t.lag.count.toNat = 0 ∧ t.lag.toLagBlock = Config.lagInit a) ∧
    ∀ n : Nat,
      ∃ t, core.run (n + 2) (issuing (w0 :: List.replicate (n + 1) w1) s) = .next t ∧
        t.lag.toLagBlock = Config.lagMix^[n / 256 + 1] (Config.lagInit a) ∧
        t.lag.count.toNat = 255 - n % 256 ∧
        lastResponse t = some ⟨.ok, datum32 (temper (t.lag.word[255 - n % 256]'(by omega)))⟩

/-! ### The Combiner -/

/-- R237 (a law), R236, R233: both `COMBINE` forms complete from any state and answer the weighted sum of the data of the ten
commands, and clear the five flags; R230, R231: their master seeds. That the discarded engines' other elements keep what
the draws left is the model's choice (log 8): R236 lets a model treat them as unspecified. -/
def Obligations.CombineIsTenCommands : Prop :=
  (∀ (b : Word64) (s : State), CombinesAs (.combineClk b) b s) ∧
  (∀ (a b : Word64) (s : State),
    CombinesAs (.combineSeed a b) (BitVec.ofNat 64 (a.toNat * b.toNat % 2 ^ 64)) s)

/-- R235: the datum of a `COMBINE` of either form is at most 5 * 2^64 - 2^34 - 1, and its value is the exact mean of the
values of the five draws of the ten commands for its master seed. -/
def Obligations.CombineIsExactMean : Prop :=
  ∀ (i : Instr) (m : Word64) (s t u : State) (r r1 r2 r3 r4 r5 : Response) (seeds : List Response),
    (i = .combineClk m ∨ ∃ a b, i = .combineSeed a b ∧ m = a * b) →
    exec i s = .next t → t.responses = s.responses ++ [r] →
    runCommands (tenCommands m) s = .next u → seeds.length = 5 →
    u.responses = s.responses ++ seeds ++ [r1, r2, r3, r4, r5] →
    r.data.toNat ≤ 5 * 2 ^ 64 - 2 ^ 34 - 1 ∧
    ∃ v1 v2 v3 v4 v5 : ℚ,
      responseValue .lcgNext r1 = some v1 ∧ responseValue .xsNext r2 = some v2 ∧
      responseValue .mtNext r3 = some v3 ∧ responseValue .pcgNext r4 = some v4 ∧
      responseValue .lagNext r5 = some v5 ∧
      responseValue i r = some ((v1 + v2 + v3 + v4 + v5) / 5)

/-- R238, a law: a `COMBINE` answers the same from any two states. R238 speaks of the response alone: that the discarded
engines are the same too rests on R233 and R236 and on the model's choice to keep what the draws left in them (log 8). -/
def Obligations.CombineIsDeterministic : Prop :=
  ∀ (i : Instr) (s s' : State), engineOf i = none → ∃ t t' r,
    exec i s = .next t ∧ exec i s' = .next t' ∧ sameEngines t t' ∧
    t.responses = s.responses ++ [r] ∧ t'.responses = s'.responses ++ [r]

/-- R232, a law: for all integers, a user seed and a clock reading combine as the clock reading that is their exact product, a
user seed 0 among them; the seed after the master seed and its low 32 bits are those of the integers. -/
def Obligations.MasterSeedOfIntegers : Prop :=
  (∀ (u v : Int) (s : State),
    exec (.combineSeed (operandOfInt u) (operandOfInt v)) s = exec (.combineClk (operandOfInt (u * v))) s) ∧
  (∀ v : Int, masterSucc (operandOfInt v) = operandOfInt (v + 1)) ∧
  (∀ v : Int, ((low32 (operandOfInt v)).toNat : Int) = v % 2 ^ 32)

/-! ### Errors and flags -/

/-- R251: a NEXT whose engine's flag is 0 answers (NotSeeded, 0) and changes nothing else; nothing else answers it. -/
def Obligations.NotSeededExactly : Prop :=
  (∀ (i : Instr) (e : Engine) (s : State), drawsEngine i = some e → seededFlag e s = false →
    exec i s = .next { s with responses := s.responses ++ [⟨.notSeeded, 0⟩] }) ∧
  (∀ (i : Instr) (s t : State) (r : Response), exec i s = .next t → t.responses = s.responses ++ [r] →
    r.status = .notSeeded → ∃ e, drawsEngine i = some e ∧ seededFlag e s = false)

/-- R31: a flag is set by its engine's SEED, cleared by a `COMBINE`, and kept by every other command. -/
def Obligations.SeededFlagDiscipline : Prop :=
  ∀ (i : Instr) (e : Engine) (s t : State), exec i s = .next t →
    seededFlag e t = if seedsEngine i = some e then true
      else if engineOf i = none then false else seededFlag e s

/-- R253: a command that is no NEXT, or whose engine is seeded, answers `OK`. The premise `Legal` rules out states that no
run reaches (log 7); StepKeepsLegal and ResetIsLegal are about it. -/
def Obligations.SeededCommandsAnswerOk : Prop :=
  ∀ (i : Instr) (s : State), Legal s → (∀ e, drawsEngine i = some e → seededFlag e s = true) →
    ∃ t d, exec i s = .next t ∧ t.responses = s.responses ++ [⟨.ok, d⟩]

/-- The model's convention for states that no run reaches (log 7): a seeded engine whose cursor or count selects no word
stops with a fault of that name. -/
def Obligations.AbsentWordsFault : Prop :=
  (∀ s : State, s.mt.seeded = true → 624 ≤ s.mt.cursor.toNat → exec .mtNext s = .fault .mtWordAbsent) ∧
  (∀ s : State, s.lag.seeded = true → 257 ≤ s.lag.count.toNat → exec .lagNext s = .fault .lagWordAbsent)

/-! ### The whole machine -/

/-- R41, R48: every step keeps the cursor and the count of a seeded engine in their legal ranges, a reset move, which may
leave anything in them, too. -/
def Obligations.StepKeepsLegal : Prop :=
  ∀ s t : State, Legal s → step s = .next t → Legal t

/-- The state right after reset is legal. -/
def Obligations.ResetIsLegal : Prop := Legal State.reset

/-- R253, and R288, a law: from a legal state no sequence of moves, however long, ends in a fault or a refusal. -/
def Obligations.LegalRunsNeverStop : Prop :=
  ∀ (s : State) (n : Nat), Legal s → ∃ t, core.run n s = .next t ∧ Legal t

/-- R289: exactly one response per command word, legal or not, at the end of those given before; the move is taken. -/
def Obligations.OneResponsePerCommand : Prop :=
  ∀ (s : State) (w : CommandWord) (rest : List HostMove), Legal s → s.moves = .command w :: rest →
    ∃ t r, step s = .next t ∧ t.responses = s.responses ++ [r] ∧ t.moves = rest ∧ t.resets = s.resets

/-- R72, a law: a command of engine `e` writes no other engine, takes no move, and reads no other engine: from two states that
agree on `e` it gives the same engine `e` and the same response. -/
def Obligations.EngineFrame : Prop :=
  ∀ (i : Instr) (e : Engine) (s t : State), engineOf i = some e → exec i s = .next t →
    (∀ f : Engine, f ≠ e → sameEngine f s t) ∧ t.moves = s.moves ∧ t.resets = s.resets ∧
    ∃ r, t.responses = s.responses ++ [r] ∧
      ∀ s' : State, sameEngine e s s' →
        ∃ t', exec i s' = .next t' ∧ sameEngine e t t' ∧ t'.responses = s'.responses ++ [r]

/-- R72, a law: commands of different engines commute: the same two responses and the same final state of every engine. -/
def Obligations.EnginesCommute : Prop :=
  ∀ (i j : Instr) (e f : Engine) (s s1 s2 : State),
    engineOf i = some e → engineOf j = some f → e ≠ f →
    exec i s = .next s1 → exec j s1 = .next s2 →
    ∃ t1 t2 ri rj, exec j s = .next t1 ∧ exec i t1 = .next t2 ∧ sameEngines s2 t2 ∧
      s2.responses = s.responses ++ [ri, rj] ∧ t2.responses = s.responses ++ [rj, ri]

/-- R72 over command sequences: what becomes of an engine is decided by its own commands and the `COMBINE`s alone; all
other words may be taken out. -/
def Obligations.EngineSeesOnlyItsCommands : Prop :=
  ∀ (e : Engine) (ws : List CommandWord) (s : State), Legal s →
    ∃ t u, core.run ws.length (issuing ws s) = .next t ∧
      core.run (ws.filter (touches e)).length (issuing (ws.filter (touches e)) s) = .next u ∧
      sameEngine e t u

/-- R285, a law: a SEED succeeds from every state and leaves nothing of the engine's earlier life: its engine is the same
whatever the state before. -/
def Obligations.ReseedErases : Prop :=
  ∀ (i : Instr) (e : Engine) (s s' : State), seedsEngine i = some e →
    ∃ t t', exec i s = .next t ∧ exec i s' = .next t' ∧ sameEngine e t t' ∧ seededFlag e t = true ∧
      t.responses = s.responses ++ [⟨.ok, 0⟩]

/-- R51: the response and the engines after a command are a function of the engines before it and the command. -/
def Obligations.ResponseFromEnginesAlone : Prop :=
  ∀ (i : Instr) (s s' t : State), sameEngines s s' → exec i s = .next t →
    ∃ t' r, exec i s' = .next t' ∧ sameEngines t t' ∧
      t.responses = s.responses ++ [r] ∧ t'.responses = s'.responses ++ [r]

/-- R53: what an engine that is not seeded holds cannot be observed: from two states with every flag 0, however their
other elements differ, every sequence of command words gets the same responses. -/
def Obligations.UnseededValuesUnobservable : Prop :=
  ∀ (ws : List CommandWord) (s s' : State), AllUnseeded s → AllUnseeded s' →
    ∃ t t' rs, core.run ws.length (issuing ws s) = .next t ∧ core.run ws.length (issuing ws s') = .next t' ∧
      t.responses = s.responses ++ rs ∧ t'.responses = s'.responses ++ rs

/-- R22, R89: a response's value is a rational in [0, 1); a SEED's datum is 0. -/
def Obligations.ValuesInUnitInterval : Prop :=
  (∀ (i : Instr) (s t : State) (r : Response) (q : ℚ),
    exec i s = .next t → t.responses = s.responses ++ [r] → responseValue i r = some q → 0 ≤ q ∧ q < 1) ∧
  (∀ (i : Instr) (e : Engine) (s t : State) (r : Response),
    seedsEngine i = some e → exec i s = .next t → t.responses = s.responses ++ [r] → r = ⟨.ok, 0⟩)
end

