-- ==== Sys2Proof/Laws/Config.lean ====
section
/-! SUPPORT. What the open type `LagAux` may be (00_scope.md R13, log 3): the default one-element type, and every other
nonempty countable type. -/

namespace Sys2Proof

/-- Where the code admits no number, the type has one element: the default of R13. -/
theorem lagAuxOf_one_element (x : LagAuxOf fun _ => false) : x = .base := by
  cases x with
  | base => rfl
  | further n admitted => cases admitted

/-- Every nonempty countable type is, up to the names of its values, the type that some code selects. -/
theorem lagAuxOf_every_countable_type (T : Type) [Countable T] [Nonempty T] :
    ∃ code : Nat → Bool, Nonempty (LagAuxOf code ≃ T) := by
  classical
  obtain ⟨t₀⟩ := ‹Nonempty T›
  obtain ⟨f, hf⟩ := exists_injective_nat T
  let code : Nat → Bool := fun n => decide (∃ t, t ≠ t₀ ∧ f t = n)
  let name : T → LagAuxOf code := fun t =>
    if h : t = t₀ then .base else .further (f t) (decide_eq_true ⟨t, h, rfl⟩)
  have name_injective : Function.Injective name := by
    intro a b hab
    by_cases ha : a = t₀ <;> by_cases hb : b = t₀
    · rw [ha, hb]
    · simp [name, ha, hb] at hab
    · simp [name, ha, hb] at hab
    · simp only [name, ha, hb, dif_neg, not_false_eq_true, LagAuxOf.further.injEq] at hab
      exact hf hab
  have name_surjective : Function.Surjective name := by
    intro x
    cases x with
    | base => exact ⟨t₀, by simp [name]⟩
    | further n admitted =>
      obtain ⟨t, ht, rfl⟩ := of_decide_eq_true admitted
      exact ⟨t, by simp [name, ht]⟩
  exact ⟨code, ⟨(Equiv.ofBijective name ⟨name_injective, name_surjective⟩).symm⟩⟩

end Sys2Proof
end

