-- ==== Sys2Proof/Laws/Engines.lean ====
section
/-! SUPPORT. What the operations of the engines do: the words of a seeded array, one iteration of the twist, the draws
of the two engines whose draw can stop. -/

namespace Sys2Proof.Machine

@[simp] theorem mtSeed_cursor (a : Word64) : (mtSeed a).cursor = 0 := rfl
@[simp] theorem mtSeed_seeded (a : Word64) : (mtSeed a).seeded = true := rfl

theorem mtSeed_word (a : Word64) (i : Nat) (h : i < 624) :
    (mtSeed a).word[i] = mtInitWord (low32 a) i := by
  simp [mtSeed]

/-- Iteration `i` of the twist writes word `i`. -/
theorem twistAt_same (w : MtWords) (i : Nat) (h : i < 624) :
    (twistAt w i h)[i] = twistWord w[i] (w[(i + 1) % 624]'(Nat.mod_lt _ (by decide)))
      (w[(i + 397) % 624]'(Nat.mod_lt _ (by decide))) := by
  simp [twistAt]

/-- Iteration `i` of the twist writes no other word. -/
theorem twistAt_other (w : MtWords) (i j : Nat) (h : i < 624) (hj : j < 624) (hne : i ≠ j) :
    (twistAt w i h)[j] = w[j] := by
  simp [twistAt, hne]

/-- The first `n` iterations leave the words from `n` on as they were. -/
theorem twistUpTo_later (w : MtWords) (n : Nat) (h : n ≤ 624) (j : Nat) (hj : j < 624) (hnj : n ≤ j) :
    (twistUpTo w n h)[j] = w[j] := by
  induction n with
  | zero => rfl
  | succ n ih =>
    rw [twistUpTo, twistAt_other _ _ _ _ hj (by omega)]
    exact ih _ (by omega)

/-- A word, once written, is left alone by the later iterations. -/
theorem twistUpTo_written (w : MtWords) (j : Nat) (hj : j < 624) (n : Nat) (h : n ≤ 624) (hjn : j < n) :
    (twistUpTo w n h)[j] = (twistUpTo w (j + 1) hj)[j] := by
  induction n with
  | zero => omega
  | succ n ih =>
    rcases Nat.lt_or_ge j n with hlt | hge
    · rw [twistUpTo, twistAt_other _ _ _ _ hj (by omega)]
      exact ih _ hlt
    · have : n = j := by omega
      subst this
      rfl

/-- Everything a draw from the `mt` engine can do. -/
theorem mtDraw_cases (e : Mt) :
    (∃ h : e.cursor.toNat < 624, mtDraw e = .ok
      ({ e with word := if e.cursor = 0 then twist e.word else e.word
                cursor := BitVec.ofNat 10 ((e.cursor.toNat + 1) % 624) },
        temper (if e.cursor = 0 then twist e.word else e.word)[e.cursor.toNat])) ∨
    (624 ≤ e.cursor.toNat ∧ mtDraw e = .error .mtWordAbsent) := by
  by_cases h : e.cursor.toNat < 624
  · exact .inl ⟨h, by simp [mtDraw, h]⟩
  · exact .inr ⟨by omega, by simp [mtDraw, h]⟩

/-- Everything a pop of the `lag` engine can do. -/
theorem lagPop_cases (e : Lag) :
    (∃ h : (e.count - 1).toNat < 256,
      lagPop e = .ok ({ e with count := e.count - 1 }, e.word[(e.count - 1).toNat])) ∨
    (256 ≤ (e.count - 1).toNat ∧ lagPop e = .error .lagWordAbsent) := by
  by_cases h : (e.count - 1).toNat < 256
  · exact .inl ⟨h, by simp only [lagPop]; rw [dif_pos h]⟩
  · exact .inr ⟨Nat.le_of_not_lt h, by simp only [lagPop]; rw [dif_neg h]⟩

/-- A draw from a `lag` engine whose count is 0 refills and then pops. -/
theorem lagDraw_empty (e : Lag) (h : e.count = 0) :
    lagDraw e = .ok ({ lagRefill e with count := 255 }, temper (Config.lagMix e.toLagBlock).word[255]) := by
  have hp : lagPop (lagRefill e) =
      .ok ({ lagRefill e with count := 255 }, (Config.lagMix e.toLagBlock).word[255]) := by
    have hc : (lagRefill e).count - 1 = 255 := show (256 : BitVec 9) - 1 = 255 by decide
    simp only [lagPop, hc]
    rfl
  rw [lagDraw, if_pos h, hp]

/-- A draw from a `lag` engine whose count is not 0 is a pop, tempered. -/
theorem lagDraw_pops (e : Lag) (h : e.count ≠ 0) :
    lagDraw e = (lagPop e).map fun p => (p.1, temper p.2) := by
  rw [lagDraw, if_neg h]
  cases lagPop e <;> rfl

end Sys2Proof.Machine
end

