-- ==== Sys2Proof/Laws/State.lean ====
section
/-! SUPPORT. The small lemmas of the state's updates: what each leaves in each field, true by `rfl`. -/

namespace Sys2Proof.Machine

variable (s : State) (r : Response) (d : Datum) (e : Status) (w : CommandWord)

@[simp] theorem answer_lcg : (answer r s).lcg = s.lcg := rfl
@[simp] theorem answer_xs : (answer r s).xs = s.xs := rfl
@[simp] theorem answer_mt : (answer r s).mt = s.mt := rfl
@[simp] theorem answer_pcg : (answer r s).pcg = s.pcg := rfl
@[simp] theorem answer_lag : (answer r s).lag = s.lag := rfl
@[simp] theorem answer_moves : (answer r s).moves = s.moves := rfl
@[simp] theorem answer_responses : (answer r s).responses = s.responses ++ [r] := rfl
@[simp] theorem answer_resets : (answer r s).resets = s.resets := rfl

@[simp] theorem respond_lcg : (respond d s).lcg = s.lcg := rfl
@[simp] theorem respond_xs : (respond d s).xs = s.xs := rfl
@[simp] theorem respond_mt : (respond d s).mt = s.mt := rfl
@[simp] theorem respond_pcg : (respond d s).pcg = s.pcg := rfl
@[simp] theorem respond_lag : (respond d s).lag = s.lag := rfl
@[simp] theorem respond_moves : (respond d s).moves = s.moves := rfl
@[simp] theorem respond_responses : (respond d s).responses = s.responses ++ [⟨.ok, d⟩] := rfl
@[simp] theorem respond_resets : (respond d s).resets = s.resets := rfl

@[simp] theorem raise_lcg : (raise e s).lcg = s.lcg := rfl
@[simp] theorem raise_xs : (raise e s).xs = s.xs := rfl
@[simp] theorem raise_mt : (raise e s).mt = s.mt := rfl
@[simp] theorem raise_pcg : (raise e s).pcg = s.pcg := rfl
@[simp] theorem raise_lag : (raise e s).lag = s.lag := rfl
@[simp] theorem raise_moves : (raise e s).moves = s.moves := rfl
@[simp] theorem raise_responses : (raise e s).responses = s.responses ++ [⟨e, 0⟩] := rfl
@[simp] theorem raise_resets : (raise e s).resets = s.resets := rfl

@[simp] theorem discardAll_lcg : (discardAll s).lcg = { s.lcg with seeded := false } := rfl
@[simp] theorem discardAll_xs : (discardAll s).xs = { s.xs with seeded := false } := rfl
@[simp] theorem discardAll_mt : (discardAll s).mt = { s.mt with seeded := false } := rfl
@[simp] theorem discardAll_pcg : (discardAll s).pcg = { s.pcg with seeded := false } := rfl
@[simp] theorem discardAll_lag : (discardAll s).lag = { s.lag with seeded := false } := rfl
@[simp] theorem discardAll_moves : (discardAll s).moves = s.moves := rfl
@[simp] theorem discardAll_responses : (discardAll s).responses = s.responses := rfl
@[simp] theorem discardAll_resets : (discardAll s).resets = s.resets := rfl

@[simp] theorem placeCommand_lcg : (placeCommand w s).lcg = s.lcg := rfl
@[simp] theorem placeCommand_xs : (placeCommand w s).xs = s.xs := rfl
@[simp] theorem placeCommand_mt : (placeCommand w s).mt = s.mt := rfl
@[simp] theorem placeCommand_pcg : (placeCommand w s).pcg = s.pcg := rfl
@[simp] theorem placeCommand_lag : (placeCommand w s).lag = s.lag := rfl
@[simp] theorem placeCommand_moves : (placeCommand w s).moves = .command w :: s.moves := rfl
@[simp] theorem placeCommand_responses : (placeCommand w s).responses = s.responses := rfl
@[simp] theorem placeCommand_resets : (placeCommand w s).resets = s.resets := rfl

@[simp] theorem applyReset_lcg_seeded : (applyReset s).lcg.seeded = false := rfl
@[simp] theorem applyReset_xs_seeded : (applyReset s).xs.seeded = false := rfl
@[simp] theorem applyReset_mt_seeded : (applyReset s).mt.seeded = false := rfl
@[simp] theorem applyReset_pcg_seeded : (applyReset s).pcg.seeded = false := rfl
@[simp] theorem applyReset_lag_seeded : (applyReset s).lag.seeded = false := rfl
@[simp] theorem applyReset_moves : (applyReset s).moves = s.moves := rfl
@[simp] theorem applyReset_responses : (applyReset s).responses = s.responses := rfl
@[simp] theorem applyReset_resets : (applyReset s).resets = s.resets + 1 := rfl

@[simp] theorem seededFlag_lcg : seededFlag .lcg s = s.lcg.seeded := rfl
@[simp] theorem seededFlag_xs : seededFlag .xs s = s.xs.seeded := rfl
@[simp] theorem seededFlag_mt : seededFlag .mt s = s.mt.seeded := rfl
@[simp] theorem seededFlag_pcg : seededFlag .pcg s = s.pcg.seeded := rfl
@[simp] theorem seededFlag_lag : seededFlag .lag s = s.lag.seeded := rfl

end Sys2Proof.Machine
end

