-- ==== Sys2Proof/Laws/Ops.lean ====
section
/-! SUPPORT. One lemma per shared operation that says everything it can do. -/

namespace Sys2Proof.Machine

/-- A NEXT's check of its flag: on, it goes on; off, its next state differs by the error response alone. -/
theorem whenSeeded_next {flag : Bool} {s t : State} {go : Answer} (h : whenSeeded flag s go = .next t) :
    (flag = true ∧ go = .next t) ∨ (flag = false ∧ t = raise .notSeeded s) := by
  cases flag with
  | true => exact .inl ⟨rfl, h⟩
  | false => exact .inr ⟨rfl, (Host.Outcome.next.inj h).symm⟩

@[simp] theorem whenSeeded_true (s : State) (go : Answer) : whenSeeded true s go = go := rfl

@[simp] theorem whenSeeded_false (s : State) (go : Answer) :
    whenSeeded false s go = .next (raise .notSeeded s) := rfl

@[simp] theorem afterDraw_ok {α : Type} (x : α) (go : α → Answer) : afterDraw (.ok x) go = go x := rfl

@[simp] theorem afterDraw_error {α : Type} (f : Fault) (go : α → Answer) :
    afterDraw (.error f) go = .fault f := rfl

/-- What follows a draw gives a next state only after a draw that gives one. -/
theorem afterDraw_next {α : Type} {draw : Except Fault α} {go : α → Answer} {t : State}
    (h : afterDraw draw go = .next t) : ∃ x, draw = .ok x ∧ go x = .next t := by
  cases draw with
  | ok x => exact ⟨x, rfl, h⟩
  | error f => cases h

/-- A stop after a draw is the draw's, or that of what follows it. -/
theorem afterDraw_fault {α : Type} {draw : Except Fault α} {go : α → Answer} {f : Fault}
    (h : afterDraw draw go = .fault f) : draw = .error f ∨ ∃ x, draw = .ok x ∧ go x = .fault f := by
  cases draw with
  | ok x => exact .inr ⟨x, rfl, h⟩
  | error g => cases h; exact .inl rfl

theorem fetchMove_nil {s : State} (h : s.moves = []) : fetchMove s = none := by
  simp [fetchMove, h]

theorem fetchMove_cons {s : State} {m : HostMove} {rest : List HostMove} (h : s.moves = m :: rest) :
    fetchMove s = some (m, { s with moves := rest }) := by
  simp [fetchMove, h]

/-- Taking the next move: there is none, or the first one is taken and nothing else changes. -/
theorem fetchMove_cases (s : State) :
    (s.moves = [] ∧ fetchMove s = none) ∨
    ∃ m rest, s.moves = m :: rest ∧ fetchMove s = some (m, { s with moves := rest }) := by
  cases h : s.moves with
  | nil => exact .inl ⟨rfl, fetchMove_nil h⟩
  | cons m rest => exact .inr ⟨m, rest, rfl, fetchMove_cons h⟩

@[simp] theorem fetchMove_placeCommand (w : CommandWord) (s : State) :
    fetchMove (placeCommand w s) = some (.command w, s) := rfl

end Sys2Proof.Machine
end

