-- ==== Sys2Proof/Laws/PerInstr.lean ====
section
/-! SUPPORT. Per-instruction families about instructions as syntax. -/

namespace Sys2Proof.Laws

/-- The word of the command carries its opcode in bits [3:0], and the opcode is one of the twelve (30_encoding.md R82). -/
def EncodesItsOpcode.Statement (i : Instr) : Prop :=
  opField (encode i) = opcodeOf i ∧ (opcodeOf i).toNat < 12

/-- The opcode field of the three fields side by side. -/
theorem opField_append (b a : Word64) (op : Opcode) : opField (b ++ a ++ op) = op := by
  simp only [opField]
  ext i hi
  simp only [BitVec.getElem_extractLsb', Nat.zero_add, BitVec.getLsbD_append, hi, if_true]
  exact BitVec.getLsbD_eq_getElem hi

theorem EncodesItsOpcode.lcgSeed (a : Word64) : EncodesItsOpcode.Statement (.lcgSeed a) :=
  ⟨opField_append _ _ _, by simp [opcodeOf]⟩

theorem EncodesItsOpcode.lcgNext : EncodesItsOpcode.Statement .lcgNext :=
  ⟨opField_append _ _ _, by simp [opcodeOf]⟩

theorem EncodesItsOpcode.xsSeed (a b : Word64) : EncodesItsOpcode.Statement (.xsSeed a b) :=
  ⟨opField_append _ _ _, by simp [opcodeOf]⟩

theorem EncodesItsOpcode.xsNext : EncodesItsOpcode.Statement .xsNext :=
  ⟨opField_append _ _ _, by simp [opcodeOf]⟩

theorem EncodesItsOpcode.mtSeed (a : Word64) : EncodesItsOpcode.Statement (.mtSeed a) :=
  ⟨opField_append _ _ _, by simp [opcodeOf]⟩

theorem EncodesItsOpcode.mtNext : EncodesItsOpcode.Statement .mtNext :=
  ⟨opField_append _ _ _, by simp [opcodeOf]⟩

theorem EncodesItsOpcode.pcgSeed (a b : Word64) : EncodesItsOpcode.Statement (.pcgSeed a b) :=
  ⟨opField_append _ _ _, by simp [opcodeOf]⟩

theorem EncodesItsOpcode.pcgNext : EncodesItsOpcode.Statement .pcgNext :=
  ⟨opField_append _ _ _, by simp [opcodeOf]⟩

theorem EncodesItsOpcode.lagSeed (a : Word64) : EncodesItsOpcode.Statement (.lagSeed a) :=
  ⟨opField_append _ _ _, by simp [opcodeOf]⟩

theorem EncodesItsOpcode.lagNext : EncodesItsOpcode.Statement .lagNext :=
  ⟨opField_append _ _ _, by simp [opcodeOf]⟩

theorem EncodesItsOpcode.combineClk (b : Word64) : EncodesItsOpcode.Statement (.combineClk b) :=
  ⟨opField_append _ _ _, by simp [opcodeOf]⟩

theorem EncodesItsOpcode.combineSeed (a b : Word64) : EncodesItsOpcode.Statement (.combineSeed a b) :=
  ⟨opField_append _ _ _, by simp [opcodeOf]⟩

end Sys2Proof.Laws
end

