-- ==== Sys2Proof/Laws/Step.lean ====
section
/-! SUPPORT. Everything a step can do: idle, a reset move, or a command word, legal or not. -/

namespace Sys2Proof.Machine

theorem performCommand_ok {w : CommandWord} {i : Instr} (h : decode w = .ok i) (s : State) :
    performCommand w s = exec i s := by
  simp [performCommand, h]

theorem performCommand_error {w : CommandWord} {e : Reject} (h : decode w = .error e) (s : State) :
    performCommand w s = .next (raise .illegalCommand s) := by
  simp [performCommand, h]

/-- What a step does, by the host's next move. -/
theorem step_cases (s : State) :
    (s.moves = [] ∧ step s = .next (idle s)) ∨
    (∃ rest, s.moves = .reset :: rest ∧ step s = .next (applyReset { s with moves := rest })) ∨
    (∃ w rest i, s.moves = .command w :: rest ∧ decode w = .ok i ∧ step s = exec i { s with moves := rest }) ∨
    (∃ w rest e, s.moves = .command w :: rest ∧ decode w = .error e ∧
      step s = .next (raise .illegalCommand { s with moves := rest })) := by
  rcases fetchMove_cases s with ⟨hm, hf⟩ | ⟨m, rest, hm, hf⟩
  · exact .inl ⟨hm, by simp [step, hf]⟩
  · cases m with
    | reset => exact .inr (.inl ⟨rest, hm, by simp [step, hf, performMove]⟩)
    | command w =>
      cases hd : decode w with
      | ok i => exact .inr (.inr (.inl ⟨w, rest, i, hm, hd, by simp [step, hf, performMove, performCommand_ok hd]⟩))
      | error e =>
        exact .inr (.inr (.inr ⟨w, rest, e, hm, hd, by simp [step, hf, performMove, performCommand_error hd]⟩))

end Sys2Proof.Machine
end

