-- ==== Sys2Proof/Tests/Slice0.lean ====
section
/-! SUPPORT. Tests on fixed values, each taken from spec/ (the vector or rule is named), and, for every statement of
Certificates/Slice0/Obligations.lean that has hypotheses, a concrete state and operands that meet them. -/

namespace Sys2Proof.Tests

open Sys2Proof Sys2Proof.Machine

/-! ### WellFormed: the smoke test -/

theorem test_wellFormed_refuses_wide_lcg_seed : (Instr.lcgSeed 0x100000000).wellFormed = false := by decide
theorem test_wellFormed_refuses_wide_mt_seed : (Instr.mtSeed 0x100001571).wellFormed = false := by decide
theorem test_wellFormed_accepts_32_bit_seed : (Instr.mtSeed 0xFFFFFFFF).wellFormed = true := by decide

/-! ### Decode: words written out from 30_encoding.md R80 and R82 (those of 95_test_vectors.md where it prints them) -/

theorem test_decode_lcgSeed : decode 0x0000000000000000FFFFFFFFFFFFFFFF0 = .ok (.lcgSeed 0xFFFFFFFFFFFFFFFF) := by rfl
theorem test_decode_lcgNext : decode 0x000000000000000000000000000000001 = .ok .lcgNext := by rfl
theorem test_decode_xsSeed : decode 0x000000000000000200000000000000012 = .ok (.xsSeed 1 2) := by rfl
theorem test_decode_xsNext : decode 0x000000000000000000000000000000003 = .ok .xsNext := by rfl
theorem test_decode_mtSeed : decode 0x000000000000000000000000000015714 = .ok (.mtSeed 5489) := by rfl
theorem test_decode_mtNext : decode 0x000000000000000000000000000000005 = .ok .mtNext := by rfl
theorem test_decode_pcgSeed : decode 0x0000000000000036000000000000002A6 = .ok (.pcgSeed 42 54) := by rfl
theorem test_decode_pcgNext : decode 0x000000000000000000000000000000007 = .ok .pcgNext := by rfl
theorem test_decode_lagSeed : decode 0x000000000000000000000000000000078 = .ok (.lagSeed 7) := by rfl
theorem test_decode_lagNext : decode 0x000000000000000000000000000000009 = .ok .lagNext := by rfl
/-- V56: `a` is ignored, and the clock reading stands in `b`. -/
theorem test_decode_combineClk : decode 0x00000000000003E80000000000000123A = .ok (.combineClk 1000) := by rfl
theorem test_decode_combineSeed : decode 0x00000000000003E80000000000000003B = .ok (.combineSeed 3 1000) := by rfl
/-- V52, V53. -/
theorem test_decode_rejects_reserved :
    decode 0xC = .error (.illegalOpcode 0xC) ∧ decode 0xD = .error (.illegalOpcode 0xD) ∧
    decode 0xE = .error (.illegalOpcode 0xE) ∧
    decode 0xFFFFFFFFFFFFFFFFFFFFFFFFFFFFFFFFF = .error (.illegalOpcode 0xF) := ⟨rfl, rfl, rfl, rfl⟩
/-- P3's first word and P5's second. -/
theorem test_encode_words :
    encode (.mtSeed 5489) = 0x000000000000000000000000000015714 ∧
    encode (.combineSeed 3 1000) = 0x00000000000003E80000000000000003B := by decide
theorem test_decodeTableWord : decodeTableWord 8 0x0B = some (.combineSeed 0 0) ∧ decodeTableWord 8 0x0C = none :=
  ⟨rfl, rfl⟩

/-! ### Responses and assembly -/

/-- The largest datum, 2.6 of 95_test_vectors.md. -/
theorem test_encodeResponse :
    encodeResponse ⟨.ok, 0x4FFFFFFFBFFFFFFFF⟩ = 0x13FFFFFFEFFFFFFFFC ∧
    encodeResponse ⟨.notSeeded, 0⟩ = 1 ∧ encodeResponse ⟨.illegalCommand, 0⟩ = 2 := by decide
/-- R87: a negative operand and a comment; the second line holds the pseudo-command of R88. -/
theorem test_assemble :
    (assemble "LCG.SEED -1 ; seed\nCOMBINE none, 0x3E8\n").toOption =
      some [.lcgSeed 0xFFFFFFFFFFFFFFFF, .combineClk 1000] := by decide
theorem test_assemble_rejects : (assemble "LCG.SEED\n").toOption = none := by decide

/-! ### One step of each command, on small states -/

/-- Every engine seeded, as by `LCG.SEED 1`, `XS.SEED 1, 2`, `PCG.SEED 42, 54`; the arrays hold ones. -/
def seededState : State :=
  { State.reset with
    lcg := { state := 1, seeded := true }
    xs := { x := 1, y := 2, seeded := true }
    mt := { word := Vector.replicate 624 1, cursor := 0, seeded := true }
    pcg := { state := 42, inc := 54, seeded := true }
    lag := { word := Vector.replicate 256 1, acc := 0, aa := 0, aux := .base, count := 0, seeded := true } }

/-- The same, with the cursor and the count inside their blocks. -/
def midBlockState : State :=
  { seededState with
    mt := { seededState.mt with cursor := 623 }
    lag := { seededState.lag with count := 255 } }

/-- The response a meaning gives last. -/
def answerOf : Answer → Option Response
  | .next t => lastResponse t
  | _ => none

/-- A view of the state a meaning gives. -/
def viewOf {α : Type} (f : State → α) : Answer → Option α
  | .next t => some (f t)
  | _ => none

/-- V8: the ignored upper half of the seed. -/
theorem test_lcgSeed : viewOf State.lcg (exec (.lcgSeed 0x100000001) State.reset) = some ⟨1, true⟩ := by decide
/-- V2 (the source's S2). -/
theorem test_lcgNext : answerOf (exec .lcgNext seededState) = some ⟨.ok, 1015568748⟩ := by decide
/-- V50. -/
theorem test_lcgNext_unseeded : exec .lcgNext State.reset = .next { State.reset with responses := [⟨.notSeeded, 0⟩] } := by
  rfl
theorem test_xsSeed : viewOf State.xs (exec (.xsSeed 1 2) State.reset) = some ⟨1, 2, true⟩ := by decide
/-- V10. -/
theorem test_xsNext : viewOf State.xs (exec .xsNext seededState) = some ⟨0x800003, 0x8000002, true⟩ := by decide
/-- V10, second step: the updated y is the one xored into x. -/
theorem test_xsNext_second :
    answerOf (exec .xsNext { seededState with xs := ⟨0x800003, 0x8000002, true⟩ }) = some ⟨.ok, 0x400009000401⟩ := by
  decide
/-- V20: words 1 to 3 after `MT.SEED 5489`. -/
theorem test_mtSeed : viewOf (fun t => (t.mt.word[1], t.mt.word[2], t.mt.word[3], t.mt.cursor))
    (exec (.mtSeed 5489) State.reset) = some (1301868182, 2938499221, 2950281878, 0) := by decide +kernel
/-- V20: the first output after `MT.SEED 5489`, which a twist makes. -/
theorem test_mtNext_twists : answerOf (exec .mtNext { State.reset with mt := mtSeed 5489 }) =
    some ⟨.ok, 3499211612⟩ := by decide +kernel
/-- R151: inside a block the word at the cursor is tempered (V-t2) and the cursor wraps from 623 to 0. -/
theorem test_mtNext : answerOf (exec .mtNext midBlockState) = some ⟨.ok, 0x00400091⟩ ∧
    viewOf (fun t => t.mt.cursor) (exec .mtNext midBlockState) = some 0 := by decide +kernel
/-- R153-code by hand: an even and an odd y. -/
theorem test_twistWord : twistWord 0x80000000 0 1 = 0x40000001 ∧ twistWord 0 1 0 = 0x9908B0DF := by decide
/-- V-t3 to V-t5. -/
theorem test_temper : temper 0xFFFFFFFF = 0x6FE01BF8 ∧ temper 0x80000000 = 0x88102204 ∧
    temper 0x12345678 = 0x2B7E4A2D := by decide
/-- V32: an even increment is stored as given. -/
theorem test_pcgSeed : viewOf State.pcg (exec (.pcgSeed 42 54) State.reset) = some ⟨42, 54, true⟩ := by decide
/-- V32, first and second draws. -/
theorem test_pcgNext : viewOf State.pcg (exec .pcgNext seededState) = some ⟨0x7D720F6E9086DD98, 54, true⟩ ∧
    answerOf (exec .pcgNext { seededState with pcg := ⟨0x7D720F6E9086DD98, 54, true⟩ }) = some ⟨.ok, 0x0C855C84⟩ := by
  decide
/-- V33: the rotation by 31 of a 37-bit intermediate. -/
theorem test_pcgNext_rot31 : answerOf (exec .pcgNext { seededState with pcg := ⟨0xFFFFFFFFFFFFFFFF, 1, true⟩ }) =
    some ⟨.ok, 0xFFF00001⟩ := by decide
/-- P6, command 1. -/
theorem test_lagSeed : viewOf State.lag (exec (.lagSeed 7) State.reset) =
    some { toLagBlock := Config.lagInit 7, count := 0, seeded := true } := by rfl
/-- R201, R204: the pop takes the word below the count, tempered (V-t2). -/
theorem test_lagNext : answerOf (exec .lagNext midBlockState) = some ⟨.ok, 0x00400091⟩ ∧
    viewOf (fun t => t.lag.count) (exec .lagNext midBlockState) = some 254 := by decide +kernel
/-- R236: the flags after a `COMBINE`, and what V40 leaves in the `lcg` and `xs` engines. -/
theorem test_combineClk : viewOf (fun t => (t.lcg, t.xs, t.mt.cursor, t.lag.count)) (exec (.combineClk 1000) seededState) =
    some (⟨0x9FA59627, false⟩, ⟨0x1F4000001, 0xFA40003E9, false⟩, 1, 255) := by rfl
/-- R231: user seed 0 gives the master seed 0 (V42), not the clock reading. -/
theorem test_combineSeed_zero : viewOf State.lcg (exec (.combineSeed 0 1000) State.reset) = some ⟨0x3C6EF35F, false⟩ := by
  rfl
/-- R235's check with fixed numerators (S11), and R231's negative seed. -/
theorem test_combineSum : combineSum (2 ^ 31) (2 ^ 62) 0 (2 ^ 32 - 1) (2 ^ 30) = 36893488143124135936 ∧
    masterOfSeed 0xFFFFFFFFFFFFFFFF 1000 = 0xFFFFFFFFFFFFFC18 := by decide +kernel
/-- 2.1 of 95_test_vectors.md. -/
theorem test_ror32 : ror32 0x80000001 1 = 0xC0000000 ∧ ror32 0x80000001 31 = 3 ∧ ror32 0x12345678 0 = 0x12345678 := by
  decide

/-! ### Witnesses: states and operands that meet the hypotheses of the statements -/

/-- The host is about to issue one word. -/
def oneWord (w : CommandWord) (s : State) : State := issuing [w] s

theorem seededState_legal : Legal seededState := ⟨fun _ => by decide, fun _ => by decide⟩
theorem midBlockState_legal : Legal midBlockState := ⟨fun _ => by decide, fun _ => by decide⟩
theorem reset_unseeded : AllUnseeded State.reset := by intro e; cases e <;> rfl

theorem witness_CanonicalWordsAreEncodings :
    (opField 0x15714).toNat < 12 ∧ (0x15714 : CommandWord) &&& usedBits (opField 0x15714) = 0x15714 ∧
    (Instr.mtSeed 0xFFFFFFFF).wellFormed = true := by decide
theorem witness_IgnoredBitsChangeNothing :
    (0x1000000000 : CommandWord) &&& usedBits (opField 0) = 0 &&& usedBits (opField 0) := by decide
theorem witness_IllegalCommandExactly :
    (oneWord 0xC State.reset).moves = .command 0xC :: [] ∧ 12 ≤ (opField 0xC).toNat ∧ (opField 0xB).toNat < 12 ∧
    ∃ t, exec .lcgNext State.reset = .next t ∧ t.responses = State.reset.responses ++ [⟨.notSeeded, 0⟩] :=
  ⟨rfl, by decide, by decide, _, rfl, rfl⟩
theorem witness_StatusCodes : (3 : ResponseWord).toNat % 4 = 3 := by decide
theorem witness_WrittenCommandsSpell : ((2 ^ 64 - 1 : Nat) : Int) = (-1) % 2 ^ 64 := by decide
theorem witness_StepRunsDecodedCommand :
    (oneWord 0x1 seededState).moves = .command 0x1 :: [] ∧ decode 0x1 = .ok .lcgNext := ⟨rfl, rfl⟩
theorem witness_PlacedWordRuns : decodeTableWord 8 0x05 = some .mtNext := by rfl
theorem witness_IdleKeepsState : seededState.moves = [] := rfl
theorem witness_ResetClearsFlags : ({ seededState with moves := [.reset] } : State).moves = .reset :: [] := rfl
/-- LcgNextSteps, LcgTransitionBijective, XsNextSteps, XsZeroCases, PcgNextSteps, PcgTransitionBijective. -/
theorem witness_seeded_engines : seededState.lcg.seeded = true ∧ seededState.xs.seeded = true ∧
    seededState.pcg.seeded = true := ⟨rfl, rfl, rfl⟩
theorem witness_LcgKthDraw : Legal seededState ∧ decode 0x0 = .ok (.lcgSeed 0) ∧ decode 0x1 = .ok .lcgNext ∧
    ∀ w ∈ [(0x1 : CommandWord), 0x3, 0xC, 0x12], decode w = .ok .lcgNext ∨ touches .lcg w = false := by
  refine ⟨seededState_legal, rfl, rfl, ?_⟩
  intro w hw
  simp only [List.mem_cons, List.not_mem_nil, or_false] at hw
  rcases hw with rfl | rfl | rfl | rfl
  · exact .inl rfl
  all_goals exact .inr rfl
theorem witness_XsZeroCases : ({ seededState with xs := ⟨0, 0, true⟩ } : State).xs = ⟨0, 0, true⟩ ∧
    ({ seededState with xs := ⟨7, 2, true⟩ } : State).xs.y = seededState.xs.y ∧
    (∃ t, exec .xsNext seededState = .next t) ∧ (∃ t, exec .xsNext { seededState with xs := ⟨7, 2, true⟩ } = .next t) ∧
    ({ seededState with xs := ⟨7, 0, true⟩ } : State).xs.y = 0 := ⟨rfl, rfl, ⟨_, rfl⟩, ⟨_, rfl⟩, rfl⟩
/-- MtNextDraws at both ends of the cursor's range. -/
theorem witness_MtNextDraws : seededState.mt.seeded = true ∧ seededState.mt.cursor.toNat = 0 ∧
    midBlockState.mt.seeded = true ∧ midBlockState.mt.cursor.toNat = 623 := by decide
theorem witness_MtTwistSchedule : decode 0x15714 = .ok (.mtSeed 5489) ∧ decode 0x5 = .ok .mtNext := ⟨rfl, rfl⟩
/-- TwisterAlive before a step that draws inside the block. -/
theorem witness_StepKeepsTwisterAlive : TwisterAlive (oneWord 0x5 midBlockState) ∧
    ∃ t, step (oneWord 0x5 midBlockState) = .next t :=
  ⟨fun _ => .inr ⟨1, by decide, by decide⟩, _, rfl⟩
theorem witness_RotateRight32 : 1 ≤ 31 ∧ 31 ≤ 31 ∧ 0 ≤ 31 ∧ 31 < 32 := by decide
theorem witness_PcgTransitionBijective : seededState.pcg.state =
    ({ seededState with pcg := { seededState.pcg with inc := 7 } } : State).pcg.state := rfl
theorem witness_PcgSmallSeedDrawsZero : (0x7FFFFFF : Word64).toNat < 2 ^ 27 := by decide
theorem witness_PcgIncrementFixed : seedsEngine .pcgNext ≠ some .pcg ∧ engineOf .pcgNext ≠ none ∧
    ∃ t, exec .pcgNext seededState = .next t := ⟨by decide, by decide, _, rfl⟩
theorem witness_LagNextRefills : seededState.lag.seeded = true ∧ seededState.lag.count.toNat = 0 := by decide
/-- LagNextPops at both ends of its range: the counts 1 and 256. -/
theorem witness_LagNextPops :
    ({ seededState with lag := { seededState.lag with count := 1 } } : State).lag.count.toNat = 0 + 1 ∧
    ({ seededState with lag := { seededState.lag with count := 256 } } : State).lag.count.toNat = 255 + 1 ∧
    ({ seededState with lag := { seededState.lag with count := 256 } } : State).lag.seeded = true := by decide
theorem witness_LagRefillSchedule : decode 0x78 = .ok (.lagSeed 7) ∧ decode 0x9 = .ok .lagNext := ⟨rfl, rfl⟩
theorem witness_CombineIsDeterministic : engineOf (.combineClk 1000) = none ∧ engineOf (.combineSeed 3 1000) = none :=
  ⟨rfl, rfl⟩
theorem witness_NotSeededExactly : drawsEngine .mtNext = some .mt ∧ seededFlag .mt State.reset = false ∧
    ∃ t, exec .mtNext State.reset = .next t ∧ t.responses = State.reset.responses ++ [⟨.notSeeded, 0⟩] :=
  ⟨rfl, rfl, _, rfl, rfl⟩
theorem witness_SeededFlagDiscipline : ∃ t, exec (.xsSeed 1 2) seededState = .next t := ⟨_, rfl⟩
theorem witness_SeededCommandsAnswerOk : Legal midBlockState ∧
    ∀ e, drawsEngine .lagNext = some e → seededFlag e midBlockState = true :=
  ⟨midBlockState_legal, fun e h => by cases h; rfl⟩
/-- AbsentWordsFault at the ends of its ranges. -/
theorem witness_AbsentWordsFault :
    ({ seededState with mt := { seededState.mt with cursor := 624 } } : State).mt.cursor.toNat = 624 ∧
    ({ seededState with lag := { seededState.lag with count := 257 } } : State).lag.count.toNat = 257 := by decide
theorem witness_StepKeepsLegal : Legal (oneWord 0x9 midBlockState) ∧ ∃ t, step (oneWord 0x9 midBlockState) = .next t :=
  ⟨midBlockState_legal, _, rfl⟩
theorem witness_LegalRunsNeverStop : Legal seededState := seededState_legal
theorem witness_OneResponsePerCommand : Legal (oneWord 0xF seededState) ∧
    (oneWord 0xF seededState).moves = .command 0xF :: [] := ⟨seededState_legal, rfl⟩
theorem witness_EngineFrame : engineOf .lcgNext = some .lcg ∧ (∃ t, exec .lcgNext seededState = .next t) ∧
    sameEngine .lcg seededState { seededState with xs := ⟨0, 0, false⟩ } := ⟨rfl, ⟨_, rfl⟩, rfl⟩
theorem witness_EnginesCommute : engineOf .lcgNext = some .lcg ∧ engineOf (.xsSeed 5 6) = some .xs ∧
    ∃ s1 s2, exec .lcgNext seededState = .next s1 ∧ exec (.xsSeed 5 6) s1 = .next s2 := ⟨rfl, rfl, _, _, rfl, rfl⟩
theorem witness_EngineSeesOnlyItsCommands : Legal midBlockState := midBlockState_legal
theorem witness_ReseedErases : seedsEngine (.mtSeed 5489) = some .mt := rfl
theorem witness_ResponseFromEnginesAlone :
    sameEngines seededState { seededState with responses := [⟨.ok, 0⟩], resets := 3 } ∧
    ∃ t, exec .pcgNext seededState = .next t :=
  ⟨fun e => by cases e <;> rfl, _, rfl⟩
theorem witness_UnseededValuesUnobservable : AllUnseeded State.reset ∧
    AllUnseeded { State.reset with mt := { State.reset.mt with cursor := 1023 } } :=
  ⟨reset_unseeded, fun e => by cases e <;> rfl⟩
theorem witness_ValuesInUnitInterval : seedsEngine (.lcgSeed 1) = some .lcg ∧
    (∃ t, exec (.lcgSeed 1) seededState = .next t ∧ t.responses = seededState.responses ++ [⟨.ok, 0⟩]) ∧
    ∃ t, exec .lcgNext seededState = .next t ∧ t.responses = seededState.responses ++ [⟨.ok, 1015568748⟩] ∧
      responseValue .lcgNext ⟨.ok, 1015568748⟩ = some (1015568748 / 2 ^ 32) := by
  refine ⟨rfl, ⟨_, rfl, rfl⟩, _, rfl, ?_, ?_⟩
  · simp only [respond_responses]
    decide
  · norm_num [responseValue, denominatorOf, show (1015568748 : Datum).toNat = 1015568748 from rfl]
/-- CombineIsExactMean: a `COMBINE` of each form, and the ten commands for its master seed, from the reset state. -/
theorem witness_CombineIsExactMean : ((5 : Word64) * 3 = 15) ∧
    ∀ i : Instr, i = .combineClk 15 ∨ i = .combineSeed 5 3 →
    ∃ (t u : State) (r r1 r2 r3 r4 r5 : Response) (seeds : List Response),
      exec i State.reset = .next t ∧ t.responses = State.reset.responses ++ [r] ∧
      runCommands (tenCommands 15) State.reset = .next u ∧ seeds.length = 5 ∧
      u.responses = State.reset.responses ++ seeds ++ [r1, r2, r3, r4, r5] := by
  refine ⟨by decide, fun i h => ?_⟩
  rcases h with rfl | rfl
  · exact ⟨_, _, _, _, _, _, _, _, [⟨.ok, 0⟩, ⟨.ok, 0⟩, ⟨.ok, 0⟩, ⟨.ok, 0⟩, ⟨.ok, 0⟩], rfl, rfl, rfl, rfl, rfl⟩
  · exact ⟨_, _, _, _, _, _, _, _, [⟨.ok, 0⟩, ⟨.ok, 0⟩, ⟨.ok, 0⟩, ⟨.ok, 0⟩, ⟨.ok, 0⟩], rfl, rfl, rfl, rfl, rfl⟩

end Sys2Proof.Tests
end

section
/-! The rotation of 00_scope.md R17, tied to the library's rotation of bit vectors. -/

namespace Sys2Proof.Machine

@[simp] theorem ror32_zero (v : Word32) : ror32 v 0 = v := rfl

theorem ror32_of_ne_zero (v : Word32) {r : Nat} (hr : r ≠ 0) :
    ror32 v r = (v >>> r) ||| (v <<< (32 - r)) := if_neg hr

/-- On R17's range of distances the model's rotation is the library's. -/
theorem ror32_eq_rotateRight (v : Word32) {r : Nat} (hr : r < 32) : ror32 v r = v.rotateRight r := by
  rw [BitVec.rotateRight_eq_rotateRightAux_of_lt hr, BitVec.rotateRightAux]
  rcases Nat.eq_zero_or_pos r with rfl | hpos
  · simp
  · exact ror32_of_ne_zero v hpos.ne'

/-- R17's formula on naturals: the two shifted parts, the left one cut to 32 bits. -/
theorem ror32_toNat (v : Word32) {r : Nat} (hr : r ≠ 0) :
    (ror32 v r).toNat = (v.toNat / 2 ^ r) ||| (v.toNat * 2 ^ (32 - r) % 2 ^ 32) := by
  rw [ror32_of_ne_zero v hr, BitVec.toNat_or, BitVec.toNat_ushiftRight, BitVec.toNat_shiftLeft,
    Nat.shiftRight_eq_div_pow, Nat.shiftLeft_eq]

/-- R17's bit law. Below `32 - r` a bit comes from the right shift; from there on `i + r` has passed 32 and the bit is one
of those that the left shift carries around. -/
theorem getLsbD_ror32 (v : Word32) {r i : Nat} (hr : r < 32) (hi : i < 32) :
    (ror32 v r).getLsbD i = v.getLsbD ((i + r) % 32) := by
  rw [ror32_eq_rotateRight v hr, BitVec.getLsbD_rotateRight, Nat.mod_eq_of_lt hr]
  by_cases hlow : i < 32 - r
  · have source : (i + r) % 32 = r + i := by omega
    simp [hlow, source]
  · have source : (i + r) % 32 = i - (32 - r) := by omega
    simp [hlow, hi, source]

/-- Settles O31: the formula and the bit law, each from its own lemma; the four examples are evaluated. -/
theorem rotateRight32 : Obligations.RotateRight32 := by
  refine ⟨ror32_zero, fun v r hpos _ => ror32_toNat v (by omega),
    fun v r i hr hi => getLsbD_ror32 v (by omega) hi, ?_, ?_, ?_, ?_⟩ <;> decide

end Sys2Proof.Machine
end

section
/-! What each command may answer (00_scope.md R21, R22; 30_encoding.md R89): a numerator in the data field stays below the
denominator that its command gives it. -/

namespace Sys2Proof.Machine

theorem datum32_toNat (n : Word32) : (datum32 n).toNat = n.toNat :=
  BitVec.toNat_setWidth_of_le (by decide)

theorem datum64_toNat (n : Word64) : (datum64 n).toNat = n.toNat :=
  BitVec.toNat_setWidth_of_le (by decide)

theorem datum32_lt (n : Word32) : (datum32 n).toNat < 2 ^ 32 := datum32_toNat n ▸ n.isLt

theorem datum64_lt (n : Word64) : (datum64 n).toNat < 2 ^ 64 := datum64_toNat n ▸ n.isLt

/-- The Combiner's sum is below its denominator (45_combiner.md R235). -/
theorem combineSum_lt (nLcg : Word32) (nXs : Word64) (nMt nPcg nLag : Word32) :
    combineSum nLcg nXs nMt nPcg nLag < 5 * 2 ^ 64 := by
  have := nLcg.isLt
  have := nXs.isLt
  have := nMt.isLt
  have := nPcg.isLt
  have := nLag.isLt
  unfold combineSum
  omega

/-- A sum in the Combiner's range stands in the data field whole (R235): `5 * 2^64` is below `2^67`. -/
theorem combineDatum_toNat {sum : Nat} (h : sum < 5 * 2 ^ 64) : (combineDatum sum).toNat = sum :=
  (BitVec.toNat_ofNat sum 67).trans (Nat.mod_eq_of_lt (by omega))

/-- What the block may answer to a command: to one without a denominator, a `SEED`, `(OK, 0)`; to every other an `OK`
numerator below the command's denominator, or the error of an engine that is not seeded. -/
def MayAnswer (i : Instr) (r : Response) : Prop :=
  match denominatorOf i with
  | none => r = ⟨.ok, 0⟩
  | some d => (r.status = .ok ∧ r.data.toNat < d) ∨ r = ⟨.notSeeded, 0⟩

theorem mayAnswer_seed {i : Instr} (hi : denominatorOf i = none) {r : Response} :
    MayAnswer i r ↔ r = ⟨.ok, 0⟩ := by
  simp only [MayAnswer, hi]

theorem mayAnswer_draw {i : Instr} {d : Nat} (hi : denominatorOf i = some d) {r : Response} :
    MayAnswer i r ↔ (r.status = .ok ∧ r.data.toNat < d) ∨ r = ⟨.notSeeded, 0⟩ := by
  simp only [MayAnswer, hi]

theorem denominatorOf_of_seedsEngine {i : Instr} {e : Engine} (h : seedsEngine i = some e) :
    denominatorOf i = none :=
  match i, h with
  | .lcgSeed _, _ => rfl
  | .xsSeed _ _, _ => rfl
  | .mtSeed _, _ => rfl
  | .pcgSeed _ _, _ => rfl
  | .lagSeed _, _ => rfl

/-- The step from `s` to `t` gives exactly one response, one that command `i` may get. -/
def AnswersOnce (i : Instr) (s t : State) : Prop :=
  ∃ r, t.responses = s.responses ++ [r] ∧ MayAnswer i r

/-- Every `SEED` replaces its engine, of which the responses tell nothing, and answers `(OK, 0)`. -/
theorem answersOnce_seed {i : Instr} (hi : denominatorOf i = none) {s s' t : State}
    (h : Host.Outcome.next (respond 0 s') = (.next t : Answer)) (hs' : s'.responses = s.responses) :
    AnswersOnce i s t := by
  cases h
  exact ⟨⟨.ok, 0⟩, by rw [respond_responses, hs'], (mayAnswer_seed hi).2 rfl⟩

/-- An `OK` answer with a numerator below the command's denominator. -/
theorem answersOnce_numerator {i : Instr} {d : Nat} (hi : denominatorOf i = some d) {n : Datum} (hn : n.toNat < d)
    {s s' t : State} (h : Host.Outcome.next (respond n s') = (.next t : Answer))
    (hs' : s'.responses = s.responses) : AnswersOnce i s t := by
  cases h
  exact ⟨⟨.ok, n⟩, by rw [respond_responses, hs'], (mayAnswer_draw hi).2 (.inl ⟨rfl, hn⟩)⟩

/-- A `NEXT` answers `NotSeeded`, or as it does once its flag is found set. -/
theorem answersOnce_whenSeeded {i : Instr} {d : Nat} (hi : denominatorOf i = some d) {flag : Bool} {s t : State}
    {go : Answer} (h : whenSeeded flag s go = .next t) (hgo : go = .next t → AnswersOnce i s t) :
    AnswersOnce i s t := by
  obtain ⟨-, hnext⟩ | ⟨-, rfl⟩ := whenSeeded_next h
  · exact hgo hnext
  · exact ⟨⟨.notSeeded, 0⟩, raise_responses s .notSeeded, (mayAnswer_draw hi).2 (.inr rfl)⟩

/-- Every `COMBINE` answers a sum of five numerators, whatever its master seed. -/
theorem answersOnce_combineBody {i : Instr} (hi : denominatorOf i = some (5 * 2 ^ 64)) {m : Word64} {s t : State}
    (h : combineBody m s = .next t) : AnswersOnce i s t := by
  unfold combineBody at h
  obtain ⟨mt, -, h⟩ := afterDraw_next h
  obtain ⟨lag, -, h⟩ := afterDraw_next h
  have hsum := combineSum_lt (lcgDraw (lcgSeed m)).2 (xsDraw (xsSeed m (masterSucc m))).2 mt.2
    (pcgDraw (pcgSeed m (masterSucc m))).2 lag.2
  exact answersOnce_numerator hi ((combineDatum_toNat hsum).trans_lt hsum) h (discardAll_responses _)

/-- A command that completes gives exactly one response (00_scope.md R21), of the kind and range of R89. -/
theorem exec_answersOnce {i : Instr} {s t : State} (h : exec i s = .next t) : AnswersOnce i s t := by
  cases i with
  | lcgSeed a => exact answersOnce_seed rfl h rfl
  | xsSeed a b => exact answersOnce_seed rfl h rfl
  | mtSeed a => exact answersOnce_seed rfl h rfl
  | pcgSeed a b => exact answersOnce_seed rfl h rfl
  | lagSeed a => exact answersOnce_seed rfl h rfl
  | lcgNext => exact answersOnce_whenSeeded rfl h fun hgo => answersOnce_numerator rfl (datum32_lt _) hgo rfl
  | xsNext => exact answersOnce_whenSeeded rfl h fun hgo => answersOnce_numerator rfl (datum64_lt _) hgo rfl
  | pcgNext => exact answersOnce_whenSeeded rfl h fun hgo => answersOnce_numerator rfl (datum32_lt _) hgo rfl
  | mtNext =>
    refine answersOnce_whenSeeded rfl h fun hdraw => ?_
    obtain ⟨d, -, hnext⟩ := afterDraw_next hdraw
    exact answersOnce_numerator rfl (datum32_lt _) hnext rfl
  | lagNext =>
    refine answersOnce_whenSeeded rfl h fun hdraw => ?_
    obtain ⟨d, -, hnext⟩ := afterDraw_next hdraw
    exact answersOnce_numerator rfl (datum32_lt _) hnext rfl
  | combineClk b => exact answersOnce_combineBody rfl h
  | combineSeed a b => exact answersOnce_combineBody rfl h

/-- Whatever response a completed command is seen to append is one that it may give. -/
theorem exec_mayAnswer {i : Instr} {s t : State} {r : Response} (h : exec i s = .next t)
    (hr : t.responses = s.responses ++ [r]) : MayAnswer i r := by
  obtain ⟨r', hr', hmay⟩ := exec_answersOnce h
  have same : r' = r := by simpa using hr'.symm.trans hr
  exact same ▸ hmay

/-- A response with a value is an `OK` one to a command with a denominator (R22, R89). -/
theorem responseValue_eq_some {i : Instr} {r : Response} {q : ℚ} (h : responseValue i r = some q) :
    r.status = .ok ∧ ∃ d, denominatorOf i = some d ∧ q = (r.data.toNat : ℚ) / (d : ℚ) := by
  unfold responseValue at h
  split at h
  next d hok hd => exact ⟨hok, d, hd, (Option.some.inj h).symm⟩
  next => cases h

/-- The value of an answer that a command may give lies in [0, 1) (R22). -/
theorem responseValue_mem_Ico {i : Instr} {r : Response} {q : ℚ} (hmay : MayAnswer i r)
    (hq : responseValue i r = some q) : q ∈ Set.Ico 0 1 := by
  obtain ⟨hok, d, hd, rfl⟩ := responseValue_eq_some hq
  obtain ⟨-, hlt⟩ | rfl := (mayAnswer_draw hd).1 hmay
  · have hpos : (0 : ℚ) < d := by exact_mod_cast Nat.zero_lt_of_lt hlt
    exact ⟨by positivity, (div_lt_one hpos).2 (by exact_mod_cast hlt)⟩
  · cases hok

/-- Settles O57, from what each command may answer. -/
theorem valuesInUnitInterval : Obligations.ValuesInUnitInterval :=
  ⟨fun _ _ _ _ _ h hr hq => responseValue_mem_Ico (exec_mayAnswer h hr) hq,
    fun _ _ _ _ _ hi h hr => (mayAnswer_seed (denominatorOf_of_seedsEngine hi)).1 (exec_mayAnswer h hr)⟩

end Sys2Proof.Machine
end

section
/-! What a command that completes has done: one inversion for all twelve commands, from which the invariants follow by
cases. -/

namespace Sys2Proof.Machine

/-- A draw from the `lcg` engine writes its state alone. The new state is named before anything is compared, so that no
reduction enters the arithmetic; likewise in the two lemmas below. -/
theorem lcgDraw_seeded {e : Lcg} {d : Lcg × Word32} (h : lcgDraw e = d) : d.1.seeded = e.seeded := by
  obtain ⟨x, hdraw⟩ : ∃ x, (lcgDraw e).1 = { e with state := x } := ⟨_, rfl⟩
  rw [← h, hdraw]

theorem xsDraw_seeded {e : Xs} {d : Xs × Word64} (h : xsDraw e = d) : d.1.seeded = e.seeded := by
  obtain ⟨x, y, hdraw⟩ : ∃ x y, (xsDraw e).1 = { e with x := x, y := y } := ⟨_, _, rfl⟩
  rw [← h, hdraw]

theorem pcgDraw_seeded_inc {e : Pcg} {d : Pcg × Word32} (h : pcgDraw e = d) :
    d.1.seeded = e.seeded ∧ d.1.inc = e.inc := by
  obtain ⟨x, hdraw⟩ : ∃ x, (pcgDraw e).1 = { e with state := x } := ⟨_, rfl⟩
  rw [← h, hdraw]
  exact ⟨rfl, rfl⟩

/-- What the five draws of a `COMBINE` give: engines and numerators. -/
structure FiveDraws where
  lcg : Lcg × Word32
  xs : Xs × Word64
  mt : Mt × Word32
  pcg : Pcg × Word32
  lag : Lag × Word32

/-- `d` is what the engines give that are freshly seeded from master seed `m` (45_combiner.md R233-code). -/
structure FiveDraws.From (m : Word64) (d : FiveDraws) : Prop where
  lcg : lcgDraw (lcgSeed m) = d.lcg
  xs : xsDraw (xsSeed m (masterSucc m)) = d.xs
  mt : mtDraw (mtSeed m) = .ok d.mt
  pcg : pcgDraw (pcgSeed m (masterSucc m)) = d.pcg
  lag : lagDraw (lagSeed m) = .ok d.lag

/-- The state after a `COMBINE` that has made the draws `d`. -/
def afterCombine (d : FiveDraws) (s : State) : State :=
  respond (combineDatum (combineSum d.lcg.2 d.xs.2 d.mt.2 d.pcg.2 d.lag.2))
    (discardAll { s with lcg := d.lcg.1, xs := d.xs.1, mt := d.mt.1, pcg := d.pcg.1, lag := d.lag.1 })

@[simp] theorem afterCombine_moves (d : FiveDraws) (s : State) : (afterCombine d s).moves = s.moves := rfl

theorem combineBody_next_iff {m : Word64} {s t : State} :
    combineBody m s = .next t ↔ ∃ d, FiveDraws.From m d ∧ t = afterCombine d s := by
  constructor
  · intro h
    unfold combineBody at h
    obtain ⟨mt, hmt, h⟩ := afterDraw_next h
    obtain ⟨lag, hlag, h⟩ := afterDraw_next h
    exact ⟨⟨_, _, mt, _, lag⟩, ⟨rfl, rfl, hmt, rfl, hlag⟩, (Host.Outcome.next.inj h).symm⟩
  · rintro ⟨d, ⟨hlcg, hxs, hmt, hpcg, hlag⟩, rfl⟩
    simp only [combineBody, hlcg, hxs, hmt, hpcg, hlag, afterDraw_ok, afterCombine]

/-- `Completes s i t`: from `s` command `i` completes, in `t`. A `SEED` has replaced its engine; a `NEXT` has found its
flag clear and raised `NotSeeded`, or has drawn from its engine; a `COMBINE` has drawn from five fresh ones. -/
inductive Completes (s : State) : Instr → State → Prop
  | seedLcg (a : Word64) : Completes s (.lcgSeed a) (respond 0 { s with lcg := lcgSeed a })
  | seedXs (a b : Word64) : Completes s (.xsSeed a b) (respond 0 { s with xs := xsSeed a b })
  | seedMt (a : Word64) : Completes s (.mtSeed a) (respond 0 { s with mt := mtSeed a })
  | seedPcg (a b : Word64) : Completes s (.pcgSeed a b) (respond 0 { s with pcg := pcgSeed a b })
  | seedLag (a : Word64) : Completes s (.lagSeed a) (respond 0 { s with lag := lagSeed a })
  | notSeeded {i : Instr} {e : Engine} (hi : drawsEngine i = some e) (hflag : seededFlag e s = false) :
      Completes s i (raise .notSeeded s)
  | drawLcg {d : Lcg × Word32} (hflag : s.lcg.seeded = true) (hdraw : lcgDraw s.lcg = d) :
      Completes s .lcgNext (respond (datum32 d.2) { s with lcg := d.1 })
  | drawXs {d : Xs × Word64} (hflag : s.xs.seeded = true) (hdraw : xsDraw s.xs = d) :
      Completes s .xsNext (respond (datum64 d.2) { s with xs := d.1 })
  | drawMt {d : Mt × Word32} (hflag : s.mt.seeded = true) (hdraw : mtDraw s.mt = .ok d) :
      Completes s .mtNext (respond (datum32 d.2) { s with mt := d.1 })
  | drawPcg {d : Pcg × Word32} (hflag : s.pcg.seeded = true) (hdraw : pcgDraw s.pcg = d) :
      Completes s .pcgNext (respond (datum32 d.2) { s with pcg := d.1 })
  | drawLag {d : Lag × Word32} (hflag : s.lag.seeded = true) (hdraw : lagDraw s.lag = .ok d) :
      Completes s .lagNext (respond (datum32 d.2) { s with lag := d.1 })
  | combineClk {b : Word64} {d : FiveDraws} (hdraws : d.From (masterOfClock b)) :
      Completes s (.combineClk b) (afterCombine d s)
  | combineSeed {a b : Word64} {d : FiveDraws} (hdraws : d.From (masterOfSeed a b)) :
      Completes s (.combineSeed a b) (afterCombine d s)

/-- A `NEXT` with its flag clear raises `NotSeeded` (60_exceptions.md R251). -/
theorem exec_of_unseeded {i : Instr} {e : Engine} {s : State} (hi : drawsEngine i = some e)
    (hflag : seededFlag e s = false) : exec i s = .next (raise .notSeeded s) := by
  have raises (go : Answer) : whenSeeded (seededFlag e s) s go = .next (raise .notSeeded s) := by
    rw [hflag, whenSeeded_false]
  match i, hi with
  | .lcgNext, rfl => exact raises _
  | .xsNext, rfl => exact raises _
  | .mtNext, rfl => exact raises _
  | .pcgNext, rfl => exact raises _
  | .lagNext, rfl => exact raises _

/-- The two ways in which a `NEXT` completes. -/
theorem completes_of_whenSeeded {i : Instr} {e : Engine} {s t : State} {go : Answer} (hi : drawsEngine i = some e)
    (h : whenSeeded (seededFlag e s) s go = .next t)
    (hgo : seededFlag e s = true → go = .next t → Completes s i t) : Completes s i t := by
  obtain ⟨hflag, hnext⟩ | ⟨hflag, rfl⟩ := whenSeeded_next h
  · exact hgo hflag hnext
  · exact .notSeeded hi hflag

theorem completes_of_exec {i : Instr} {s t : State} (h : exec i s = .next t) : Completes s i t := by
  cases i with
  | lcgSeed a => cases h; exact .seedLcg a
  | xsSeed a b => cases h; exact .seedXs a b
  | mtSeed a => cases h; exact .seedMt a
  | pcgSeed a b => cases h; exact .seedPcg a b
  | lagSeed a => cases h; exact .seedLag a
  | lcgNext =>
    exact completes_of_whenSeeded rfl h fun hflag hnext => Host.Outcome.next.inj hnext ▸ .drawLcg hflag rfl
  | xsNext =>
    exact completes_of_whenSeeded rfl h fun hflag hnext => Host.Outcome.next.inj hnext ▸ .drawXs hflag rfl
  | pcgNext =>
    exact completes_of_whenSeeded rfl h fun hflag hnext => Host.Outcome.next.inj hnext ▸ .drawPcg hflag rfl
  | mtNext =>
    refine completes_of_whenSeeded rfl h fun hflag hdraw => ?_
    obtain ⟨d, hd, hnext⟩ := afterDraw_next hdraw
    cases hnext
    exact .drawMt hflag hd
  | lagNext =>
    refine completes_of_whenSeeded rfl h fun hflag hdraw => ?_
    obtain ⟨d, hd, hnext⟩ := afterDraw_next hdraw
    cases hnext
    exact .drawLag hflag hd
  | combineClk b =>
    obtain ⟨d, hdraws, rfl⟩ := combineBody_next_iff.1 h
    exact .combineClk hdraws
  | combineSeed a b =>
    obtain ⟨d, hdraws, rfl⟩ := combineBody_next_iff.1 h
    exact .combineSeed hdraws

theorem Completes.exec_eq {i : Instr} {s t : State} (h : Completes s i t) : exec i s = .next t := by
  cases h with
  | seedLcg | seedXs | seedMt | seedPcg | seedLag => rfl
  | notSeeded hi hflag => exact exec_of_unseeded hi hflag
  | drawLcg hflag hdraw => simp only [exec, execLcgNext, hflag, hdraw, whenSeeded_true]
  | drawXs hflag hdraw => simp only [exec, execXsNext, hflag, hdraw, whenSeeded_true]
  | drawPcg hflag hdraw => simp only [exec, execPcgNext, hflag, hdraw, whenSeeded_true]
  | drawMt hflag hdraw => simp only [exec, execMtNext, hflag, hdraw, whenSeeded_true, afterDraw_ok]
  | drawLag hflag hdraw => simp only [exec, execLagNext, hflag, hdraw, whenSeeded_true, afterDraw_ok]
  | combineClk hdraws => exact combineBody_next_iff.2 ⟨_, hdraws, rfl⟩
  | combineSeed hdraws => exact combineBody_next_iff.2 ⟨_, hdraws, rfl⟩

/-- A command takes no move of the host's. -/
theorem Completes.moves_eq {i : Instr} {s t : State} (h : Completes s i t) : t.moves = s.moves := by
  cases h with
  | notSeeded => exact raise_moves s _
  | combineClk | combineSeed => exact afterCombine_moves _ s
  | seedLcg | drawLcg | seedXs | drawXs | seedMt | drawMt | seedPcg | drawPcg | seedLag | drawLag =>
    exact respond_moves _ _

end Sys2Proof.Machine
end

section
/-! The states that the rules allow (10_state.md R41, R48): in them every command completes, and every step stays among
them. -/

namespace Sys2Proof.Machine

/-- What a draw from the `mt` engine does to its flag and its cursor, and when it stops. -/
theorem mtDraw_range (e : Mt) :
    (e.cursor.toNat ≤ 623 ∧ ∃ d, mtDraw e = .ok d ∧ d.1.seeded = e.seeded ∧ d.1.cursor.toNat ≤ 623) ∨
    (624 ≤ e.cursor.toNat ∧ mtDraw e = .error .mtWordAbsent) := by
  obtain ⟨h, hdraw⟩ | absent := mtDraw_cases e
  · refine .inl ⟨by omega, _, hdraw, rfl, ?_⟩
    simp only [BitVec.toNat_ofNat]
    omega
  · exact .inr absent

/-- What a draw from the `lag` engine does to its flag and its count, and when it stops. -/
theorem lagDraw_range (e : Lag) :
    (e.count.toNat ≤ 256 ∧ ∃ d, lagDraw e = .ok d ∧ d.1.seeded = e.seeded ∧ d.1.count.toNat ≤ 255) ∨
    (257 ≤ e.count.toNat ∧ lagDraw e = .error .lagWordAbsent) := by
  by_cases hcount : e.count = 0
  · exact .inl ⟨by simp [hcount], _, lagDraw_empty e hcount, rfl, Nat.le_refl 255⟩
  · have below : (e.count - 1).toNat + 1 = e.count.toNat := by bv_omega
    obtain ⟨h, hpop⟩ | ⟨h, hpop⟩ := lagPop_cases e
    · exact .inl ⟨by omega, _, by rw [lagDraw_pops e hcount, hpop]; rfl, rfl, Nat.le_of_lt_succ h⟩
    · exact .inr ⟨by omega, by rw [lagDraw_pops e hcount, hpop]; rfl⟩

/-- A draw that the `mt` engine gives keeps the flag and leaves a legal cursor. -/
theorem mtDraw_ok {e : Mt} {d : Mt × Word32} (h : mtDraw e = .ok d) :
    d.1.seeded = e.seeded ∧ d.1.cursor.toNat ≤ 623 := by
  obtain ⟨-, d', hdraw, post⟩ | ⟨-, hdraw⟩ := mtDraw_range e
  · cases hdraw.symm.trans h
    exact post
  · cases hdraw.symm.trans h

/-- A draw that the `lag` engine gives keeps the flag and leaves a legal count. -/
theorem lagDraw_ok {e : Lag} {d : Lag × Word32} (h : lagDraw e = .ok d) :
    d.1.seeded = e.seeded ∧ d.1.count.toNat ≤ 255 := by
  obtain ⟨-, d', hdraw, post⟩ | ⟨-, hdraw⟩ := lagDraw_range e
  · cases hdraw.symm.trans h
    exact post
  · cases hdraw.symm.trans h

theorem mtDraw_completes {e : Mt} (h : e.cursor.toNat ≤ 623) : ∃ d, mtDraw e = .ok d := by
  obtain ⟨-, d, hdraw, -⟩ | ⟨absent, -⟩ := mtDraw_range e
  · exact ⟨d, hdraw⟩
  · omega

theorem lagDraw_completes {e : Lag} (h : e.count.toNat ≤ 255) : ∃ d, lagDraw e = .ok d := by
  obtain ⟨-, d, hdraw, -⟩ | ⟨absent, -⟩ := lagDraw_range e
  · exact ⟨d, hdraw⟩
  · omega

theorem mtDraw_absent {e : Mt} (h : 624 ≤ e.cursor.toNat) : mtDraw e = .error .mtWordAbsent := by
  obtain ⟨present, -⟩ | ⟨-, hdraw⟩ := mtDraw_range e
  · omega
  · exact hdraw

theorem lagDraw_absent {e : Lag} (h : 257 ≤ e.count.toNat) : lagDraw e = .error .lagWordAbsent := by
  obtain ⟨present, -⟩ | ⟨-, hdraw⟩ := lagDraw_range e
  · omega
  · exact hdraw

/-- A state with no engine seeded is legal, whatever its cursor and count. -/
theorem AllUnseeded.legal {s : State} (h : AllUnseeded s) : Legal s :=
  ⟨fun hmt => absurd hmt (Bool.eq_false_iff.1 (h .mt)), fun hlag => absurd hlag (Bool.eq_false_iff.1 (h .lag))⟩

theorem allUnseeded_reset : AllUnseeded State.reset := fun e => by cases e <;> rfl

theorem allUnseeded_applyReset (s : State) : AllUnseeded (applyReset s) := fun e => by cases e <;> rfl

theorem allUnseeded_afterCombine (d : FiveDraws) (s : State) : AllUnseeded (afterCombine d s) :=
  fun e => by cases e <;> rfl

/-- A command that completes keeps the legal ranges: a draw leaves its engine inside them, and every other command that
writes the `mt` or the `lag` engine sets its position to 0 or clears its flag. -/
theorem Completes.legal {i : Instr} {s t : State} (h : Completes s i t) (hs : Legal s) : Legal t := by
  obtain ⟨hmt, hlag⟩ := hs
  cases h with
  | seedLcg | seedXs | seedPcg | notSeeded | drawLcg | drawXs | drawPcg => exact ⟨hmt, hlag⟩
  | seedMt a => exact ⟨fun _ => Nat.zero_le _, hlag⟩
  | seedLag a => exact ⟨hmt, fun _ => Nat.zero_le _⟩
  | drawMt hflag hdraw => exact ⟨fun _ => (mtDraw_ok hdraw).2, hlag⟩
  | drawLag hflag hdraw => exact ⟨hmt, fun _ => (lagDraw_ok hdraw).2⟩
  | combineClk | combineSeed => exact (allUnseeded_afterCombine _ _).legal

/-- Settles O47, by what a step can do; a reset move may leave anything in an engine, but leaves none seeded. -/
theorem stepKeepsLegal : Obligations.StepKeepsLegal := by
  intro s t hs h
  obtain ⟨-, hstep⟩ | ⟨rest, -, hstep⟩ | ⟨w, rest, i, -, -, hstep⟩ | ⟨w, rest, e, -, -, hstep⟩ := step_cases s
  · cases hstep.symm.trans h
    exact hs
  · cases hstep.symm.trans h
    exact (allUnseeded_applyReset _).legal
  · exact (completes_of_exec (hstep.symm.trans h)).legal hs
  · cases hstep.symm.trans h
    exact hs

/-- Settles O48, from the flags alone. -/
theorem resetIsLegal : Obligations.ResetIsLegal := allUnseeded_reset.legal

/-- Settles O13: the step takes the move, and what a reset leaves free is no flag. -/
theorem resetClearsFlags : Obligations.ResetClearsFlags := by
  refine ⟨allUnseeded_reset, fun s rest hmoves => ⟨applyReset { s with moves := rest }, ?_, ?_, rfl, rfl⟩⟩
  · rw [step, fetchMove_cons hmoves]
    rfl
  · exact allUnseeded_applyReset _

/-- Settles O46: past the flag, the draw is the one that stops. -/
theorem absentWordsFault : Obligations.AbsentWordsFault := by
  constructor
  · intro s hflag hcursor
    simp only [exec, execMtNext, hflag, whenSeeded_true, mtDraw_absent hcursor, afterDraw_error]
  · intro s hflag hcount
    simp only [exec, execLagNext, hflag, whenSeeded_true, lagDraw_absent hcount, afterDraw_error]

theorem whenSeeded_completes {flag : Bool} {s : State} {go : Answer} (h : flag = true → ∃ t, go = .next t) :
    ∃ t, whenSeeded flag s go = .next t := by
  cases flag with
  | true => exact h rfl
  | false => exact ⟨_, whenSeeded_false s go⟩

theorem afterDraw_completes {α : Type} {draw : Except Fault α} {go : α → State} (h : ∃ d, draw = .ok d) :
    ∃ t, afterDraw draw (fun d => .next (go d)) = .next t := by
  obtain ⟨d, rfl⟩ := h
  exact ⟨_, afterDraw_ok d _⟩

theorem combineBody_completes (m : Word64) (s : State) : ∃ t, combineBody m s = .next t := by
  obtain ⟨mt, hmt⟩ := mtDraw_completes (e := mtSeed m) (Nat.zero_le _)
  obtain ⟨lag, hlag⟩ := lagDraw_completes (e := lagSeed m) (Nat.zero_le _)
  exact ⟨_, combineBody_next_iff.2 ⟨⟨_, _, mt, _, lag⟩, ⟨rfl, rfl, hmt, rfl, hlag⟩, rfl⟩⟩

/-- From a legal state every command completes (60_exceptions.md R253). -/
theorem exec_completes {s : State} (hs : Legal s) (i : Instr) : ∃ t, exec i s = .next t := by
  obtain ⟨hmt, hlag⟩ := hs
  cases i with
  | lcgSeed | xsSeed | mtSeed | pcgSeed | lagSeed => exact ⟨_, rfl⟩
  | lcgNext | xsNext | pcgNext => exact whenSeeded_completes fun _ => ⟨_, rfl⟩
  | mtNext => exact whenSeeded_completes fun hflag => afterDraw_completes (mtDraw_completes (hmt hflag))
  | lagNext => exact whenSeeded_completes fun hflag => afterDraw_completes (lagDraw_completes (hlag hflag))
  | combineClk | combineSeed => exact combineBody_completes _ s

end Sys2Proof.Machine
end

section
/-! What a command leaves as it was: the engines that are not its own (20_memory.md R72), the increment of the `pcg`
engine (10_state.md R44), the flags (R31). -/

namespace Sys2Proof.Machine

theorem sameEngine.symm {e : Engine} {s t : State} (h : sameEngine e s t) : sameEngine e t s := by
  cases e <;> exact Eq.symm h

theorem sameEngine.trans {e : Engine} {s t u : State} (h : sameEngine e s t) (h' : sameEngine e t u) :
    sameEngine e s u := by
  cases e <;> exact Eq.trans h h'

theorem sameEngine.seededFlag_eq {e : Engine} {s t : State} (h : sameEngine e s t) :
    seededFlag e s = seededFlag e t := by
  cases e with
  | lcg => exact congrArg Lcg.seeded h
  | xs => exact congrArg Xs.seeded h
  | mt => exact congrArg Mt.seeded h
  | pcg => exact congrArg Pcg.seeded h
  | lag => exact congrArg Lag.seeded h

/-- Neither the moves, the responses nor the count of resets are part of an engine. -/
theorem sameEngine_raise (e : Engine) (st : Status) (s : State) : sameEngine e s (raise st s) := by
  cases e <;> rfl

theorem sameEngine_issuing (e : Engine) (ws : List CommandWord) (s : State) : sameEngine e s (issuing ws s) := by
  cases e <;> rfl

theorem engineOf_of_seedsEngine {i : Instr} {e : Engine} (h : seedsEngine i = some e) : engineOf i = some e := by
  cases i <;> cases h <;> rfl

theorem engineOf_of_drawsEngine {i : Instr} {e : Engine} (h : drawsEngine i = some e) : engineOf i = some e := by
  cases i <;> cases h <;> rfl

theorem seedsEngine_of_drawsEngine {i : Instr} {e : Engine} (h : drawsEngine i = some e) : seedsEngine i = none := by
  cases i <;> cases h <;> rfl

/-- A command of engine `e` writes no other engine. -/
theorem Completes.frame {i : Instr} {e f : Engine} {s t : State} (h : Completes s i t) (hi : engineOf i = some e)
    (hf : f ≠ e) : sameEngine f s t := by
  cases h with
  | notSeeded => exact sameEngine_raise f _ s
  | combineClk | combineSeed => cases hi
  | seedLcg | drawLcg | seedXs | drawXs | seedMt | drawMt | seedPcg | drawPcg | seedLag | drawLag =>
    cases hi
    revert hf
    cases f <;> simp [sameEngine]

/-- Settles O34: of the commands that write the `pcg` engine, only the draw is left, and it writes the state alone. -/
theorem pcgIncrementFixed : Obligations.PcgIncrementFixed := by
  intro i s t hseeds hengine h
  cases completes_of_exec h with
  | seedPcg => exact absurd rfl hseeds
  | combineClk | combineSeed => exact absurd rfl hengine
  | drawPcg hflag hdraw => exact (pcgDraw_seeded_inc hdraw).2
  | seedLcg | seedXs | seedMt | seedLag | notSeeded | drawLcg | drawXs | drawMt | drawLag => rfl

/-- The flag of a command's own engine: its `SEED` sets it, its `NEXT` keeps it. -/
theorem Completes.ownFlag {i : Instr} {e : Engine} {s t : State} (h : Completes s i t) (hi : engineOf i = some e) :
    seededFlag e t = if seedsEngine i = some e then true else seededFlag e s := by
  cases h with
  | notSeeded hdraws => rw [seedsEngine_of_drawsEngine hdraws, (sameEngine_raise e _ s).seededFlag_eq]; rfl
  | combineClk | combineSeed => cases hi
  | seedLcg | seedXs | seedMt | seedPcg | seedLag => cases hi; rfl
  | drawLcg hflag hdraw => cases hi; exact lcgDraw_seeded hdraw
  | drawXs hflag hdraw => cases hi; exact xsDraw_seeded hdraw
  | drawPcg hflag hdraw => cases hi; exact (pcgDraw_seeded_inc hdraw).1
  | drawMt hflag hdraw => cases hi; exact (mtDraw_ok hdraw).1
  | drawLag hflag hdraw => cases hi; exact (lagDraw_ok hdraw).1

theorem Completes.allUnseeded {i : Instr} {s t : State} (h : Completes s i t) (hi : engineOf i = none) :
    AllUnseeded t := by
  cases h with
  | combineClk | combineSeed => exact allUnseeded_afterCombine _ _
  | notSeeded hdraws => cases hi.symm.trans (engineOf_of_drawsEngine hdraws)
  | seedLcg | drawLcg | seedXs | drawXs | seedMt | drawMt | seedPcg | drawPcg | seedLag | drawLag => cases hi

/-- Settles O44: a `COMBINE` clears every flag; every other command keeps the flags that are not its own engine's. -/
theorem seededFlagDiscipline : Obligations.SeededFlagDiscipline := by
  intro i e s t h
  have hc := completes_of_exec h
  cases hi : engineOf i with
  | none =>
    have noSeed : seedsEngine i ≠ some e := fun hs => by cases hi.symm.trans (engineOf_of_seedsEngine hs)
    rw [if_neg noSeed, if_pos rfl]
    exact hc.allUnseeded hi e
  | some f =>
    rw [if_neg (Option.some_ne_none f)]
    by_cases hef : e = f
    · subst hef
      exact hc.ownFlag hi
    · have noSeed : seedsEngine i ≠ some e := fun hs =>
        hef (Option.some.inj ((engineOf_of_seedsEngine hs).symm.trans hi))
      rw [if_neg noSeed]
      exact (hc.frame hi hef).seededFlag_eq.symm

end Sys2Proof.Machine
end

section
/-! What a response depends on (10_state.md R51, R53): the engines alone, and of an engine whose flag is 0 the flag alone.
Two states are compared engine by engine; a command that completes from one completes from the other. -/

namespace Sys2Proof.Machine

/-- Engine `e` has the same flag in both states, and with the flag set it is the same engine. -/
def Agrees (e : Engine) (s s' : State) : Prop :=
  seededFlag e s = seededFlag e s' ∧ (seededFlag e s = true → sameEngine e s s')

theorem sameEngine.agrees {e : Engine} {s s' : State} (h : sameEngine e s s') : Agrees e s s' :=
  ⟨h.seededFlag_eq, fun _ => h⟩

/-- Whether two states agree on an engine depends on that engine alone. -/
theorem Agrees.congr {e : Engine} {s s' t t' : State} (h : Agrees e s s') (hs : sameEngine e s t)
    (hs' : sameEngine e s' t') : Agrees e t t' := by
  obtain ⟨hflag, hsame⟩ := h
  refine ⟨by rw [← hs.seededFlag_eq, hflag, hs'.seededFlag_eq], fun hseeded => ?_⟩
  exact (hs.symm.trans (hsame (hs.seededFlag_eq.trans hseeded))).trans hs'

theorem AllUnseeded.agrees {s s' : State} (h : AllUnseeded s) (h' : AllUnseeded s') (e : Engine) : Agrees e s s' :=
  ⟨(h e).trans (h' e).symm, fun hseeded => absurd hseeded (Bool.eq_false_iff.1 (h e))⟩

/-- The steps from `s` to `t` and from `s'` to `t'` are alike: one response each, the same, and every engine ends the
same in `t` and `t'` or was left as it was by both steps. -/
structure Alike (s s' t t' : State) : Prop where
  response : ∃ r, t.responses = s.responses ++ [r] ∧ t'.responses = s'.responses ++ [r]
  engines : ∀ e, sameEngine e t t' ∨ (sameEngine e s t ∧ sameEngine e s' t')

/-- A command of engine `e` runs alike from `s` and `s'` once it gives the same response and the same engine `e`: the
other engines it leaves as they were. -/
theorem alike_of_own {i : Instr} {e : Engine} {s s' t t' : State} {r : Response} (hi : engineOf i = some e)
    (h : Completes s i t) (h' : Completes s' i t') (hr : t.responses = s.responses ++ [r])
    (hr' : t'.responses = s'.responses ++ [r]) (own : sameEngine e t t') :
    ∃ u, Completes s' i u ∧ Alike s s' t u := by
  refine ⟨t', h', ⟨r, hr, hr'⟩, fun f => ?_⟩
  by_cases hf : f = e
  · exact .inl (hf ▸ own)
  · exact .inr ⟨h.frame hi hf, h'.frame hi hf⟩

theorem alike_raise (st : Status) (s s' : State) : Alike s s' (raise st s) (raise st s') :=
  ⟨⟨_, rfl, rfl⟩, fun e => .inr ⟨sameEngine_raise e st s, sameEngine_raise e st s'⟩⟩

theorem alike_afterCombine (d : FiveDraws) (s s' : State) : Alike s s' (afterCombine d s) (afterCombine d s') :=
  ⟨⟨_, rfl, rfl⟩, fun e => .inl (by cases e <;> rfl)⟩

/-- A command reads nothing but flags and seeded engines: from states that agree on those it runs alike. -/
theorem Completes.alike {i : Instr} {s s' t : State} (h : Completes s i t) (hag : ∀ e, Agrees e s s') :
    ∃ t', Completes s' i t' ∧ Alike s s' t t' := by
  cases h with
  | notSeeded hi hflag => exact ⟨_, .notSeeded hi ((hag _).1 ▸ hflag), alike_raise _ s s'⟩
  | combineClk hdraws => exact ⟨_, .combineClk hdraws, alike_afterCombine _ s s'⟩
  | combineSeed hdraws => exact ⟨_, .combineSeed hdraws, alike_afterCombine _ s s'⟩
  | seedLcg a => exact alike_of_own rfl (.seedLcg a) (.seedLcg a) rfl rfl rfl
  | seedXs a b => exact alike_of_own rfl (.seedXs a b) (.seedXs a b) rfl rfl rfl
  | seedMt a => exact alike_of_own rfl (.seedMt a) (.seedMt a) rfl rfl rfl
  | seedPcg a b => exact alike_of_own rfl (.seedPcg a b) (.seedPcg a b) rfl rfl rfl
  | seedLag a => exact alike_of_own rfl (.seedLag a) (.seedLag a) rfl rfl rfl
  | drawLcg hflag hdraw =>
    have same : s.lcg = s'.lcg := (hag .lcg).2 hflag
    exact alike_of_own rfl (.drawLcg hflag hdraw) (.drawLcg (same ▸ hflag) (same ▸ hdraw)) rfl rfl rfl
  | drawXs hflag hdraw =>
    have same : s.xs = s'.xs := (hag .xs).2 hflag
    exact alike_of_own rfl (.drawXs hflag hdraw) (.drawXs (same ▸ hflag) (same ▸ hdraw)) rfl rfl rfl
  | drawMt hflag hdraw =>
    have same : s.mt = s'.mt := (hag .mt).2 hflag
    exact alike_of_own rfl (.drawMt hflag hdraw) (.drawMt (same ▸ hflag) (same ▸ hdraw)) rfl rfl rfl
  | drawPcg hflag hdraw =>
    have same : s.pcg = s'.pcg := (hag .pcg).2 hflag
    exact alike_of_own rfl (.drawPcg hflag hdraw) (.drawPcg (same ▸ hflag) (same ▸ hdraw)) rfl rfl rfl
  | drawLag hflag hdraw =>
    have same : s.lag = s'.lag := (hag .lag).2 hflag
    exact alike_of_own rfl (.drawLag hflag hdraw) (.drawLag (same ▸ hflag) (same ▸ hdraw)) rfl rfl rfl

/-- Settles O55: states with the same engines agree, and what both steps leave as it was is still the same. -/
theorem responseFromEnginesAlone : Obligations.ResponseFromEnginesAlone := by
  intro i s s' t hsame h
  obtain ⟨t', h', ⟨r, hr, hr'⟩, engines⟩ := (completes_of_exec h).alike fun e => (hsame e).agrees
  refine ⟨t', r, h'.exec_eq, fun e => ?_, hr, hr'⟩
  obtain ended | ⟨kept, kept'⟩ := engines e
  · exact ended
  · exact (kept.symm.trans (hsame e)).trans kept'

/-- Steps that are alike keep the agreement. -/
theorem Alike.agrees {s s' t t' : State} (h : Alike s s' t t') (hag : ∀ e, Agrees e s s') (e : Engine) :
    Agrees e t t' := by
  obtain ended | ⟨kept, kept'⟩ := h.engines e
  · exact ended.agrees
  · exact (hag e).congr kept kept'

/-- From states that agree, one of them legal, every command word is performed to the end, alike. -/
theorem performCommand_alike {s s' : State} (hs : Legal s) (hag : ∀ e, Agrees e s s') (w : CommandWord) :
    ∃ t t', performCommand w s = .next t ∧ performCommand w s' = .next t' ∧ Legal t ∧ Alike s s' t t' := by
  cases hd : decode w with
  | error e =>
    exact ⟨_, _, performCommand_error hd s, performCommand_error hd s', hs, alike_raise _ s s'⟩
  | ok i =>
    obtain ⟨t, h⟩ := exec_completes hs i
    have hc := completes_of_exec h
    obtain ⟨t', hc', halike⟩ := hc.alike hag
    exact ⟨t, t', (performCommand_ok hd s).trans h, (performCommand_ok hd s').trans hc'.exec_eq, hc.legal hs, halike⟩

theorem performCommand_moves {w : CommandWord} {s t : State} (h : performCommand w s = .next t) :
    t.moves = s.moves := by
  cases hd : decode w with
  | error e =>
    cases (performCommand_error hd s).symm.trans h
    rfl
  | ok i => exact (completes_of_exec ((performCommand_ok hd s).symm.trans h)).moves_eq

theorem run_succ_of_step {M : Host.Core} {s t : M.State} (h : M.step s = .next t) (n : Nat) :
    M.run (n + 1) s = M.run n t := by
  simp only [Host.Core.run, h]

/-- A run of issued words performs the first one and goes on with the others. -/
theorem run_issuing_cons {w : CommandWord} {ws : List CommandWord} {s t : State}
    (h : performCommand w (issuing ws s) = .next t) :
    core.run (w :: ws).length (issuing (w :: ws) s) = core.run ws.length (issuing ws t) := by
  have hstep : core.step (issuing (w :: ws) s) = .next t := h
  have hmoves : issuing ws t = t := by
    rw [issuing, ← show t.moves = ws.map .command from performCommand_moves h]
  rw [hmoves]
  exact run_succ_of_step hstep _

/-- From states that agree, one of them legal, every sequence of command words completes and gets the same responses. -/
theorem run_issuing_alike (ws : List CommandWord) : ∀ {s s' : State}, Legal s → (∀ e, Agrees e s s') →
    ∃ t t' rs, core.run ws.length (issuing ws s) = .next t ∧ core.run ws.length (issuing ws s') = .next t' ∧
      t.responses = s.responses ++ rs ∧ t'.responses = s'.responses ++ rs := by
  induction ws with
  | nil => exact fun {s s'} _ _ => ⟨_, _, [], rfl, rfl, (List.append_nil _).symm, (List.append_nil _).symm⟩
  | cons w ws ih =>
    intro s s' hs hag
    have hag' (e : Engine) : Agrees e (issuing ws s) (issuing ws s') :=
      (hag e).congr (sameEngine_issuing e ws s) (sameEngine_issuing e ws s')
    obtain ⟨u, u', hu, hu', hlegal, halike⟩ := performCommand_alike (s := issuing ws s) hs hag' w
    obtain ⟨r, hr, hr'⟩ := halike.response
    obtain ⟨t, t', rs, ht, ht', hrs, hrs'⟩ := ih hlegal (halike.agrees hag')
    refine ⟨t, t', r :: rs, (run_issuing_cons hu).trans ht, (run_issuing_cons hu').trans ht', ?_, ?_⟩
    · rw [hrs, hr, List.append_assoc]
      rfl
    · rw [hrs', hr', List.append_assoc]
      rfl

/-- Settles O56: states with every flag 0 agree and are legal. -/
theorem unseededValuesUnobservable : Obligations.UnseededValuesUnobservable :=
  fun ws _ _ h h' => run_issuing_alike ws h.legal (h.agrees h')

end Sys2Proof.Machine
end

section
/-! Engines apart (20_memory.md R72): a command of one engine is decided by that engine alone, so commands of different
engines commute, and what becomes of an engine is decided by its own commands and the `COMBINE`s. -/

namespace Sys2Proof.Machine

@[refl] theorem sameEngine.refl (e : Engine) (s : State) : sameEngine e s s := by
  cases e <;> rfl

theorem Completes.resets_eq {i : Instr} {s t : State} (h : Completes s i t) : t.resets = s.resets := by
  cases h with
  | notSeeded => exact raise_resets s _
  | combineClk | combineSeed => rfl
  | seedLcg | drawLcg | seedXs | drawXs | seedMt | drawMt | seedPcg | drawPcg | seedLag | drawLag =>
    exact respond_resets _ _

/-- A command of engine `e` reads no other engine: a `SEED` reads none, a `NEXT` its own flag and its own elements. -/
theorem Completes.own {i : Instr} {e : Engine} {s t : State} (h : Completes s i t) (hi : engineOf i = some e) :
    ∃ r, t.responses = s.responses ++ [r] ∧ ∀ s', sameEngine e s s' →
      ∃ t', Completes s' i t' ∧ sameEngine e t t' ∧ t'.responses = s'.responses ++ [r] := by
  cases h with
  | combineClk | combineSeed => cases hi
  | notSeeded hdraws hflag =>
    cases hi.symm.trans (engineOf_of_drawsEngine hdraws)
    refine ⟨_, raise_responses s _, fun s' same => ⟨_, .notSeeded hdraws (same.seededFlag_eq ▸ hflag), ?_, rfl⟩⟩
    exact (sameEngine_raise e _ s).symm.trans (same.trans (sameEngine_raise e _ s'))
  | seedLcg | seedXs | seedMt | seedPcg | seedLag =>
    cases hi
    exact ⟨_, rfl, fun _ _ => ⟨_, completes_of_exec rfl, rfl, rfl⟩⟩
  | drawLcg hflag hdraw =>
    cases hi
    exact ⟨_, rfl, fun s' (same : s.lcg = s'.lcg) => ⟨_, .drawLcg (same ▸ hflag) (same ▸ hdraw), rfl, rfl⟩⟩
  | drawXs hflag hdraw =>
    cases hi
    exact ⟨_, rfl, fun s' (same : s.xs = s'.xs) => ⟨_, .drawXs (same ▸ hflag) (same ▸ hdraw), rfl, rfl⟩⟩
  | drawMt hflag hdraw =>
    cases hi
    exact ⟨_, rfl, fun s' (same : s.mt = s'.mt) => ⟨_, .drawMt (same ▸ hflag) (same ▸ hdraw), rfl, rfl⟩⟩
  | drawPcg hflag hdraw =>
    cases hi
    exact ⟨_, rfl, fun s' (same : s.pcg = s'.pcg) => ⟨_, .drawPcg (same ▸ hflag) (same ▸ hdraw), rfl, rfl⟩⟩
  | drawLag hflag hdraw =>
    cases hi
    exact ⟨_, rfl, fun s' (same : s.lag = s'.lag) => ⟨_, .drawLag (same ▸ hflag) (same ▸ hdraw), rfl, rfl⟩⟩

/-- Settles O51: what is written by `Completes.frame`, what is read by `Completes.own`. -/
theorem engineFrame : Obligations.EngineFrame := by
  intro i e s t hi h
  have hc := completes_of_exec h
  obtain ⟨r, hr, own⟩ := hc.own hi
  refine ⟨fun f hf => hc.frame hi hf, hc.moves_eq, hc.resets_eq, r, hr, fun s' same => ?_⟩
  obtain ⟨t', hc', ended, hr'⟩ := own s' same
  exact ⟨t', hc'.exec_eq, ended, hr'⟩

/-- Settles O52: each command finds its own engine as it would have found it in the other order, since the other command
leaves that engine as it was. -/
theorem enginesCommute : Obligations.EnginesCommute := by
  intro i j e f s s1 s2 hi hj hef hexec_i hexec_j
  have hci := completes_of_exec hexec_i
  have hcj := completes_of_exec hexec_j
  obtain ⟨ri, hri, own_i⟩ := hci.own hi
  obtain ⟨rj, hrj, own_j⟩ := hcj.own hj
  obtain ⟨t1, hcj', ended_f, hrj'⟩ := own_j s (hci.frame hi hef.symm).symm
  obtain ⟨t2, hci', ended_e, hri'⟩ := own_i t1 (hcj'.frame hj hef)
  refine ⟨t1, t2, ri, rj, hcj'.exec_eq, hci'.exec_eq, fun g => ?_, ?_, ?_⟩
  · by_cases hge : g = e
    · subst hge
      exact (hcj.frame hj hef).symm.trans ended_e
    · have same_t1 : sameEngine g s2 t1 := by
        by_cases hgf : g = f
        · exact hgf ▸ ended_f
        · have s2_s : sameEngine g s2 s := (hcj.frame hj hgf).symm.trans (hci.frame hi hge).symm
          exact s2_s.trans (hcj'.frame hj hgf)
      exact same_t1.trans (hci'.frame hi hge)
  · rw [hrj, hri, List.append_assoc]
    rfl
  · rw [hri', hrj', List.append_assoc]
    rfl

/-- A `COMBINE` reads no engine: from every state it leaves the same five. -/
theorem Completes.combine {i : Instr} {s t : State} (h : Completes s i t) (hi : engineOf i = none) (s' : State) :
    ∃ t', Completes s' i t' ∧ sameEngines t t' := by
  cases h with
  | combineClk hdraws => exact ⟨_, .combineClk hdraws, fun e => by cases e <;> rfl⟩
  | combineSeed hdraws => exact ⟨_, .combineSeed hdraws, fun e => by cases e <;> rfl⟩
  | notSeeded hdraws => cases hi.symm.trans (engineOf_of_drawsEngine hdraws)
  | seedLcg | drawLcg | seedXs | drawXs | seedMt | drawMt | seedPcg | drawPcg | seedLag | drawLag => cases hi

theorem touches_iff {e : Engine} {w : CommandWord} :
    touches e w = true ↔ ∃ i, decode w = .ok i ∧ (engineOf i = some e ∨ engineOf i = none) := by
  unfold touches
  cases decode w <;> simp

/-- A word that is no command of engine `e` and no `COMBINE` leaves `e` as it was. -/
theorem performCommand_untouched {e : Engine} {w : CommandWord} {s t : State} (hw : touches e w = false)
    (h : performCommand w s = .next t) : sameEngine e s t := by
  cases hd : decode w with
  | error r =>
    cases (performCommand_error hd s).symm.trans h
    exact sameEngine_raise e _ s
  | ok i =>
    have foreign : ¬(engineOf i = some e ∨ engineOf i = none) := fun hi =>
      Bool.eq_false_iff.1 hw (touches_iff.2 ⟨i, hd, hi⟩)
    obtain ⟨f, hf⟩ := Option.ne_none_iff_exists'.1 fun hi => foreign (.inr hi)
    have hef : e ≠ f := fun hef => foreign (.inl (hef ▸ hf))
    exact (completes_of_exec ((performCommand_ok hd s).symm.trans h)).frame hf hef

/-- A command of engine `e`, or a `COMBINE`, leaves the same engine `e` from states that have the same engine `e`. -/
theorem performCommand_touched {e : Engine} {w : CommandWord} {s s' t : State} (hw : touches e w = true)
    (same : sameEngine e s s') (h : performCommand w s = .next t) :
    ∃ t', performCommand w s' = .next t' ∧ sameEngine e t t' := by
  obtain ⟨i, hd, hi⟩ := touches_iff.1 hw
  have hc := completes_of_exec ((performCommand_ok hd s).symm.trans h)
  obtain own | combine := hi
  · obtain ⟨r, -, hown⟩ := hc.own own
    obtain ⟨t', hc', ended, -⟩ := hown s' same
    exact ⟨t', (performCommand_ok hd s').trans hc'.exec_eq, ended⟩
  · obtain ⟨t', hc', ended⟩ := hc.combine combine s'
    exact ⟨t', (performCommand_ok hd s').trans hc'.exec_eq, ended e⟩

/-- From a legal state every command word is performed to the end, in a legal state. -/
theorem performCommand_completes {s : State} (hs : Legal s) (w : CommandWord) :
    ∃ t, performCommand w s = .next t ∧ Legal t := by
  obtain ⟨t, -, h, -, hlegal, -⟩ := performCommand_alike hs (fun e => (sameEngine.refl e s).agrees) w
  exact ⟨t, h, hlegal⟩

/-- The run of all words and the run of those that touch engine `e` go side by side, with the same engine `e` after every
word: a word that is left out does not change it. -/
theorem run_issuing_filter (e : Engine) (ws : List CommandWord) : ∀ {s s' : State}, Legal s → sameEngine e s s' →
    ∃ t u, core.run ws.length (issuing ws s) = .next t ∧
      core.run (ws.filter (touches e)).length (issuing (ws.filter (touches e)) s') = .next u ∧
      sameEngine e t u := by
  induction ws with
  | nil =>
    intro s s' _ same
    exact ⟨_, _, rfl, rfl, (sameEngine_issuing e [] s).symm.trans (same.trans (sameEngine_issuing e [] s'))⟩
  | cons w ws ih =>
    intro s s' hs same
    obtain ⟨s1, h1, hlegal⟩ := performCommand_completes (s := issuing ws s) hs w
    have same_issuing := (sameEngine_issuing e ws s).symm.trans same
    rw [run_issuing_cons h1]
    cases hw : touches e w with
    | true =>
      obtain ⟨s1', h1', same1⟩ :=
        performCommand_touched hw (same_issuing.trans (sameEngine_issuing e (ws.filter (touches e)) s')) h1
      rw [List.filter_cons_of_pos hw, run_issuing_cons h1']
      exact ih hlegal same1
    | false =>
      rw [List.filter_cons_of_neg (Bool.eq_false_iff.1 hw)]
      exact ih hlegal ((performCommand_untouched hw h1).symm.trans same_issuing)

/-- Settles O53: both runs begin in one state. -/
theorem engineSeesOnlyItsCommands : Obligations.EngineSeesOnlyItsCommands :=
  fun e ws s hs => run_issuing_filter e ws hs (sameEngine.refl e s)

end Sys2Proof.Machine
end

section
/-! Command words as three fields (30_encoding.md R80): what the fields of a word put together are, and the word that its
fields put together. -/

namespace Sys2Proof

/-- Two bit strings side by side, as a number. -/
theorem toNat_append_eq_add {m n : Nat} (x : BitVec m) (y : BitVec n) :
    (x ++ y).toNat = y.toNat + x.toNat * 2 ^ n := by
  rw [BitVec.toNat_append, ← Nat.shiftLeft_add_eq_or_of_lt y.isLt, Nat.shiftLeft_eq, Nat.add_comm]

@[simp] theorem aField_append (b a : Word64) (op : Opcode) : aField (b ++ a ++ op) = a := by
  rw [aField, BitVec.extractLsb'_append_eq_of_le (by decide)]
  exact BitVec.extractLsb'_append_eq_right

@[simp] theorem bField_append (b a : Word64) (op : Opcode) : bField (b ++ a ++ op) = b := by
  rw [bField, BitVec.extractLsb'_append_eq_of_le (by decide)]
  exact BitVec.extractLsb'_append_eq_left

/-- A word is its three fields side by side. -/
theorem fields_append (w : CommandWord) : bField w ++ aField w ++ opField w = w := by
  have operands : bField w ++ aField w = w.extractLsb' 4 128 := BitVec.extractLsb'_append_extractLsb'_eq_extractLsb' rfl
  have whole : w.extractLsb' 4 128 ++ opField w = w.extractLsb' 0 132 :=
    BitVec.extractLsb'_append_extractLsb'_eq_extractLsb' rfl
  rw [operands, whole, BitVec.extractLsb'_eq_self]

theorem opField_encode (i : Instr) : opField (encode i) = opcodeOf i := Laws.opField_append _ _ _

theorem aField_encode (i : Instr) : aField (encode i) = operandA i := aField_append _ _ _

theorem bField_encode (i : Instr) : bField (encode i) = operandB i := bField_append _ _ _

/-- R80's equation for three fields side by side. -/
theorem toNat_fields (b a : Word64) (op : Opcode) :
    (b ++ a ++ op).toNat = op.toNat + a.toNat * 2 ^ 4 + b.toNat * 2 ^ 68 := by
  rw [toNat_append_eq_add, toNat_append_eq_add]
  ring

/-- Settles O3: both words are three fields side by side. -/
theorem commandWordAsNumber : Obligations.CommandWordAsNumber :=
  ⟨fun i => toNat_fields (operandB i) (operandA i) (opcodeOf i),
    fun w => (congrArg BitVec.toNat (fields_append w)).symm.trans (toNat_fields _ _ _)⟩

end Sys2Proof
end

section
/-! The decoder, one equation for the legal opcodes and one for the rest (30_encoding.md R82, R85): a legal word is the
command of its opcode with its operands read from the two fields. -/

namespace Sys2Proof

/-- The command of the same opcode whose operands, those that the command has, are read from fields `a` and `b`. -/
def Instr.withOperands (a b : Word64) : Instr → Instr
  | .lcgSeed _ => .lcgSeed a
  | .lcgNext => .lcgNext
  | .xsSeed _ _ => .xsSeed a b
  | .xsNext => .xsNext
  | .mtSeed _ => .mtSeed a
  | .mtNext => .mtNext
  | .pcgSeed _ _ => .pcgSeed a b
  | .pcgNext => .pcgNext
  | .lagSeed _ => .lagSeed a
  | .lagNext => .lagNext
  | .combineClk _ => .combineClk b
  | .combineSeed _ _ => .combineSeed a b

@[simp] theorem opcodeOf_withOperands (a b : Word64) (i : Instr) : opcodeOf (i.withOperands a b) = opcodeOf i := by
  cases i <;> rfl

@[simp] theorem withOperands_own (i : Instr) : i.withOperands (operandA i) (operandB i) = i := by
  cases i <;> rfl

@[simp] theorem withOperands_withOperands (a b a' b' : Word64) (i : Instr) :
    (i.withOperands a' b').withOperands a b = i.withOperands a b := by
  cases i <;> rfl

/-- One command of each opcode. -/
def sampleCommands : List Instr :=
  [.lcgSeed 0, .lcgNext, .xsSeed 0 0, .xsNext, .mtSeed 0, .mtNext, .pcgSeed 0 0, .pcgNext, .lagSeed 0, .lagNext,
    .combineClk 0, .combineSeed 0 0]

/-- Every opcode below 12 is that of a command. -/
theorem exists_opcodeOf_eq {op : Opcode} (h : op.toNat < 12) : ∃ i, opcodeOf i = op := by
  have sampled : ∀ op : Opcode, op.toNat < 12 → op ∈ sampleCommands.map opcodeOf := by decide
  obtain ⟨i, -, hi⟩ := List.mem_map.1 (sampled op h)
  exact ⟨i, hi⟩

theorem decode_of_opField {w : CommandWord} {i : Instr} (h : opField w = opcodeOf i) :
    decode w = .ok (i.withOperands (aField w) (bField w)) := by
  cases i <;> simp only [decode, h] <;> rfl

/-- Every word with an opcode below 12 is a command of that opcode (R82). -/
theorem decode_of_lt_twelve {w : CommandWord} (h : (opField w).toNat < 12) :
    ∃ i, decode w = .ok i ∧ opcodeOf i = opField w := by
  obtain ⟨i, hi⟩ := exists_opcodeOf_eq h
  exact ⟨_, decode_of_opField hi.symm, (opcodeOf_withOperands _ _ i).trans hi⟩

theorem decode_of_twelve_le {w : CommandWord} (h : 12 ≤ (opField w).toNat) :
    decode w = .error (.illegalOpcode (opField w)) := by
  unfold decode
  split
  case h_13 => rfl
  all_goals omega

/-- The decoder's inversion: a word decodes to `i` exactly when it has the opcode of `i` and `i` has its operands. -/
theorem decode_eq_ok_iff {w : CommandWord} {i : Instr} :
    decode w = .ok i ↔ opField w = opcodeOf i ∧ i.withOperands (aField w) (bField w) = i := by
  constructor
  · intro h
    have legal : (opField w).toNat < 12 := by
      by_contra illegal
      cases h.symm.trans (decode_of_twelve_le (Nat.le_of_not_lt illegal))
    obtain ⟨j, hj⟩ := exists_opcodeOf_eq legal
    rw [decode_of_opField hj.symm] at h
    cases h
    simp [hj]
  · rintro ⟨hop, hown⟩
    rw [decode_of_opField hop, hown]

/-- Settles O1: the word has the command's opcode, and its fields hold the command's own operands. -/
theorem encodeThenDecode : Obligations.EncodeThenDecode := by
  intro i
  rw [decode_of_opField (opField_encode i), aField_encode, bField_encode, withOperands_own]

end Sys2Proof
end

section
/-! Ignored bits (30_encoding.md R84): a word with its ignored bits cleared is the word of the same command with the
ignored bits of its operands cleared, and such a command has the same meaning. -/

namespace Sys2Proof

/-- The bits of field `a` that a command uses (R82, column "operands used"). -/
def usedA : Instr → Word64
  | .lcgSeed _ => 0xFFFFFFFF
  | .lcgNext => 0
  | .xsSeed _ _ => BitVec.allOnes 64
  | .xsNext => 0
  | .mtSeed _ => 0xFFFFFFFF
  | .mtNext => 0
  | .pcgSeed _ _ => BitVec.allOnes 64
  | .pcgNext => 0
  | .lagSeed _ => BitVec.allOnes 64
  | .lagNext => 0
  | .combineClk _ => 0
  | .combineSeed _ _ => BitVec.allOnes 64

/-- The bits of field `b` that a command uses (R82, column "operands used"). -/
def usedB : Instr → Word64
  | .lcgSeed _ => 0
  | .lcgNext => 0
  | .xsSeed _ _ => BitVec.allOnes 64
  | .xsNext => 0
  | .mtSeed _ => 0
  | .mtNext => 0
  | .pcgSeed _ _ => BitVec.allOnes 64
  | .pcgNext => 0
  | .lagSeed _ => 0
  | .lagNext => 0
  | .combineClk _ => BitVec.allOnes 64
  | .combineSeed _ _ => BitVec.allOnes 64

theorem usedBits_opcodeOf (i : Instr) : usedBits (opcodeOf i) = usedB i ++ usedA i ++ BitVec.allOnes 4 := by
  cases i <;> simp only [opcodeOf, usedB, usedA] <;> decide

/-- The command with the ignored bits of its operands 0. -/
def Instr.canonical : Instr → Instr
  | .lcgSeed a => .lcgSeed (a &&& 0xFFFFFFFF)
  | .mtSeed a => .mtSeed (a &&& 0xFFFFFFFF)
  | i => i

theorem opcodeOf_canonical (i : Instr) : opcodeOf i.canonical = opcodeOf i := by
  cases i <;> rfl

theorem operandA_canonical (i : Instr) : operandA i.canonical = operandA i &&& usedA i := by
  cases i <;> simp [operandA, usedA, Instr.canonical, -BitVec.reduceAllOnes]

theorem operandB_canonical (i : Instr) : operandB i.canonical = operandB i &&& usedB i := by
  cases i <;> simp [operandB, usedB, Instr.canonical, -BitVec.reduceAllOnes]

/-- A command has in field `a` whatever it uses of the operand it is given. -/
theorem operandA_withOperands (a b : Word64) (i : Instr) :
    operandA (i.withOperands a b) &&& usedA i = a &&& usedA i := by
  cases i <;> simp [operandA, usedA, Instr.withOperands]

theorem operandB_withOperands (a b : Word64) (i : Instr) :
    operandB (i.withOperands a b) &&& usedB i = b &&& usedB i := by
  cases i <;> simp [operandB, usedB, Instr.withOperands]

theorem encode_canonical (i : Instr) :
    encode i.canonical = (operandB i &&& usedB i) ++ (operandA i &&& usedA i) ++ opcodeOf i := by
  rw [encode, operandB_canonical, operandA_canonical, opcodeOf_canonical]

/-- Clearing the ignored bits of a legal word gives the word of its command with the operands' ignored bits cleared. -/
theorem and_usedBits_of_decode {w : CommandWord} {i : Instr} (h : decode w = .ok i) :
    w &&& usedBits (opField w) = encode i.canonical := by
  obtain ⟨hop, hown⟩ := decode_eq_ok_iff.1 h
  have ha : aField w &&& usedA i = operandA i &&& usedA i := by
    rw [← operandA_withOperands (aField w) (bField w), hown]
  have hb : bField w &&& usedB i = operandB i &&& usedB i := by
    rw [← operandB_withOperands (aField w) (bField w), hown]
  calc w &&& usedBits (opField w)
      = (bField w ++ aField w ++ opField w) &&& (usedB i ++ usedA i ++ BitVec.allOnes 4) := by
        rw [fields_append, hop, usedBits_opcodeOf]
    _ = (bField w &&& usedB i) ++ (aField w &&& usedA i) ++ opField w := by
        rw [BitVec.and_append, BitVec.and_append, BitVec.and_allOnes]
    _ = encode i.canonical := by rw [hb, ha, hop, encode_canonical]

theorem decode_and_usedBits {w : CommandWord} {i : Instr} (h : decode w = .ok i) :
    decode (w &&& usedBits (opField w)) = .ok i.canonical :=
  (congrArg decode (and_usedBits_of_decode h)).trans (encodeThenDecode i.canonical)

theorem toNat_and_mask32 (a : Word64) : (a &&& 0xFFFFFFFF).toNat = a.toNat % 2 ^ 32 :=
  (BitVec.toNat_and a 0xFFFFFFFF).trans (Nat.and_two_pow_sub_one_eq_mod a.toNat 32)

theorem and_mask32_eq_self_iff (a : Word64) : a &&& 0xFFFFFFFF = a ↔ a.toNat < 2 ^ 32 := by
  rw [← BitVec.toNat_inj, toNat_and_mask32]
  omega

/-- The model's well-formed commands are those with no ignored bit to clear. -/
theorem wellFormed_iff_canonical_eq (i : Instr) : i.wellFormed = true ↔ i.canonical = i := by
  cases i with
  | lcgSeed a => simpa [Instr.wellFormed, Instr.canonical] using (and_mask32_eq_self_iff a).symm
  | mtSeed a => simpa [Instr.wellFormed, Instr.canonical] using (and_mask32_eq_self_iff a).symm
  | _ => exact iff_of_true rfl rfl

/-- Settles O2. A word with its ignored bits 0 is the word of its command made canonical; it decodes to both commands, so
they are one. For the word of a well-formed command the same equation is read from the other side. -/
theorem canonicalWordsAreEncodings : Obligations.CanonicalWordsAreEncodings := by
  constructor
  · intro w hop hw
    obtain ⟨i, hi, -⟩ := decode_of_lt_twelve hop
    have hcanonical : i.canonical = i :=
      Except.ok.inj ((decode_and_usedBits hi).symm.trans ((congrArg decode hw).trans hi))
    have hword : encode i.canonical = w := (and_usedBits_of_decode hi).symm.trans hw
    exact ⟨i, hi, hcanonical ▸ hword, (wellFormed_iff_canonical_eq i).2 hcanonical⟩
  · intro i hi
    rw [← opField_encode i, and_usedBits_of_decode (encodeThenDecode i), (wellFormed_iff_canonical_eq i).1 hi]

/-- The opcode is among the used bits of every word, legal or not. -/
theorem opField_and_usedBits (w : CommandWord) (op : Opcode) : opField (w &&& usedBits op) = opField w := by
  have opBits : ∀ op : Opcode, opField (usedBits op) = BitVec.allOnes 4 := by decide
  have hand : opField (w &&& usedBits op) = opField w &&& opField (usedBits op) := BitVec.extractLsb'_and
  rw [hand, opBits, BitVec.and_allOnes]

end Sys2Proof
end

section
/-! What the block does with a command word: nothing depends on the ignored bits (30_encoding.md R84), and the opcodes
0xC to 0xF, and they alone, are answered `IllegalCommand` (R85; 60_exceptions.md R252). -/

namespace Sys2Proof.Machine

theorem low32_and_mask32 (a : Word64) : low32 (a &&& 0xFFFFFFFF) = low32 a := by
  apply BitVec.eq_of_toNat_eq
  rw [low32, low32, BitVec.toNat_setWidth, BitVec.toNat_setWidth, toNat_and_mask32, Nat.mod_mod]

/-- The two 32-bit seeds look at the low half of their operand alone (R83). -/
theorem exec_canonical (i : Instr) (s : State) : exec i.canonical s = exec i s := by
  cases i with
  | lcgSeed a => simp only [Instr.canonical, exec, execLcgSeed, lcgSeed, low32_and_mask32]
  | mtSeed a => simp only [Instr.canonical, exec, execMtSeed, mtSeed, low32_and_mask32]
  | _ => rfl

/-- A word is performed as the same word with its ignored bits cleared, be it a command or not. -/
theorem performCommand_and_usedBits (w : CommandWord) (s : State) :
    performCommand (w &&& usedBits (opField w)) s = performCommand w s := by
  rcases Nat.lt_or_ge (opField w).toNat 12 with legal | illegal
  · obtain ⟨i, hi, -⟩ := decode_of_lt_twelve legal
    rw [performCommand_ok (decode_and_usedBits hi), performCommand_ok hi, exec_canonical]
  · rw [performCommand_error (decode_of_twelve_le illegal),
      performCommand_error (decode_of_twelve_le (by rwa [opField_and_usedBits]))]

theorem step_command {s : State} {w : CommandWord} {rest : List HostMove} (h : s.moves = .command w :: rest) :
    step s = performCommand w { s with moves := rest } := by
  simp [step, fetchMove_cons h, performMove]

/-- Settles O4: the words have one opcode, which is among the bits they share, so with their ignored bits cleared they
are one word. -/
theorem ignoredBitsChangeNothing : Obligations.IgnoredBitsChangeNothing := by
  intro s v w rest hvw
  have hop : opField v = opField w := by
    rw [← opField_and_usedBits v (opField w), hvw, opField_and_usedBits]
  rw [step_command rfl, step_command rfl, ← performCommand_and_usedBits v, hop, hvw, performCommand_and_usedBits w]

theorem MayAnswer.status_ne {i : Instr} {r : Response} (h : MayAnswer i r) : r.status ≠ .illegalCommand := by
  cases hd : denominatorOf i with
  | none => simp [(mayAnswer_seed hd).1 h]
  | some d =>
    obtain ⟨hok, -⟩ | rfl := (mayAnswer_draw hd).1 h
    · simp [hok]
    · simp

/-- Settles O5, from the decoder on either side of opcode 12 and from what each command may answer. -/
theorem illegalCommandExactly : Obligations.IllegalCommandExactly := by
  refine ⟨fun s w rest hmoves illegal => ?_, fun _ => decode_of_lt_twelve,
    fun i s t r h hr => (exec_mayAnswer h hr).status_ne⟩
  rw [step_command hmoves, performCommand_error (decode_of_twelve_le illegal)]
  rfl

end Sys2Proof.Machine
end

section
/-! Response words (30_encoding.md R81, R90): the status in the two low bits, the data above it, and reading them back. -/

namespace Sys2Proof.Machine

theorem statusCode_le (st : Status) : (statusCode st).toNat ≤ 2 := by
  cases st <;> decide

theorem encodeResponse_toNat (r : Response) :
    (encodeResponse r).toNat = (statusCode r.status).toNat + r.data.toNat * 2 ^ 2 :=
  toNat_append_eq_add r.data (statusCode r.status)

/-- The status field of a response word (R81). -/
theorem encodeResponse_status (r : Response) : (encodeResponse r).toNat % 4 = (statusCode r.status).toNat := by
  have := statusCode_le r.status
  rw [encodeResponse_toNat]
  omega

theorem decodeResponse_encodeResponse (r : Response) : decodeResponse (encodeResponse r) = some r := by
  obtain ⟨st, d⟩ := r
  have hstatus : (encodeResponse ⟨st, d⟩).extractLsb' 0 2 = statusCode st := BitVec.extractLsb'_append_eq_right
  have hdata : (encodeResponse ⟨st, d⟩).extractLsb' 2 67 = d := BitVec.extractLsb'_append_eq_left
  cases st <;> simp [decodeResponse, hstatus, hdata, statusCode]

/-- Settles O8: the number from the two fields side by side, the reading from their extraction. -/
theorem responseWordAsNumber : Obligations.ResponseWordAsNumber :=
  fun r => ⟨encodeResponse_toNat r, decodeResponse_encodeResponse r⟩

/-- R90: status 3 is no response of the block's. -/
theorem decodeResponse_of_status_three {w : ResponseWord} (h : w.toNat % 4 = 3) : decodeResponse w = none := by
  have hstatus : (w.extractLsb' 0 2).toNat = 3 := h
  simp [decodeResponse, hstatus]

/-- Settles O7: the field is the code, and no code is above 2. -/
theorem statusCodes : Obligations.StatusCodes := by
  refine ⟨rfl, rfl, rfl, fun r => ⟨encodeResponse_status r, ?_⟩, fun w h => decodeResponse_of_status_three h⟩
  have := statusCode_le r.status
  have := encodeResponse_status r
  omega

end Sys2Proof.Machine
end

section
/-! Written commands (30_encoding.md R87, R88). -/

namespace Sys2Proof.Machine

/-- A word written as an integer is the operand it was (R87). -/
theorem operandOfInt_toNat (a : Word64) : operandOfInt (a.toNat : Int) = a := by
  rw [operandOfInt, BitVec.ofInt_natCast, BitVec.ofNat_toNat, BitVec.setWidth_eq]

/-- An integer operand stands for its residue modulo 2^64 (R23, R87). -/
theorem operandOfInt_of_residue {v : Int} {n : Nat} (h : (n : Int) = v % 2 ^ 64) :
    operandOfInt v = BitVec.ofNat 64 n := by
  apply BitVec.eq_of_toNat_eq
  rw [operandOfInt, BitVec.toNat_ofInt, BitVec.toNat_ofNat]
  omega

theorem commandOf_mnemonicOf (i : Instr) : commandOf (mnemonicOf i) (operandsOf i) = some i := by
  cases i <;> simp [commandOf, mnemonicOf, operandsOf, writtenWord, operandOfInt_toNat]

/-- Settles O9: the table of mnemonics, and the residue that an integer stands for; `COMBINE` has two arms of its own. -/
theorem writtenCommandsSpell : Obligations.WrittenCommandsSpell :=
  ⟨commandOf_mnemonicOf, fun _ _ h => congrArg (some ∘ Instr.lcgSeed) (operandOfInt_of_residue h), fun _ => rfl,
    fun _ _ => rfl⟩

end Sys2Proof.Machine
end

section
/-! The `lcg` engine (40_lcg.md): the recurrence on numbers, and what its two commands leave behind. -/

namespace Sys2Proof.Machine

/-- R111's recurrence on numbers. -/
theorem lcgStep_toNat (x : Word32) : (lcgStep x).toNat = (1664525 * x.toNat + 1013904223) % 2 ^ 32 := by
  have multiplier : lcgMultiplier.toNat = 1664525 := by decide
  have increment : lcgIncrement.toNat = 1013904223 := by decide
  rw [lcgStep, BitVec.toNat_add, BitVec.toNat_mul, multiplier, increment, Nat.mod_add_mod]

theorem lcgStep_eq_ofNat (x : Word32) :
    lcgStep x = BitVec.ofNat 32 ((1664525 * x.toNat + 1013904223) % 2 ^ 32) := by
  rw [← lcgStep_toNat, BitVec.ofNat_toNat, BitVec.setWidth_eq]

/-- The recurrence `k` times over: the words and the numbers go side by side. -/
theorem lcgStep_iterate_toNat (k : Nat) (x : Word32) :
    (lcgStep^[k] x).toNat = (fun n : Nat => (1664525 * n + 1013904223) % 2 ^ 32)^[k] x.toNat := by
  have one : Function.Semiconj BitVec.toNat lcgStep fun n : Nat => (1664525 * n + 1013904223) % 2 ^ 32 :=
    lcgStep_toNat
  exact (one.iterate_right k).eq x

theorem low32_toNat (a : Word64) : (low32 a).toNat = a.toNat % 2 ^ 32 := BitVec.toNat_setWidth 32 a

theorem low32_eq_ofNat (a : Word64) : low32 a = BitVec.ofNat 32 (a.toNat % 2 ^ 32) := by
  rw [← low32_toNat, BitVec.ofNat_toNat, BitVec.setWidth_eq]

theorem datum32_eq_ofNat (n : Word32) : datum32 n = BitVec.ofNat 67 n.toNat := (BitVec.ofNat_toNat 67 n).symm

theorem exec_lcgSeed (a : Word64) (s : State) :
    exec (.lcgSeed a) s = .next (respond 0 { s with lcg := ⟨low32 a, true⟩ }) := rfl

/-- `LCG.NEXT` on a seeded engine writes its state and answers the new one (R111-code). -/
theorem exec_lcgNext {s : State} {x : Word32} (h : s.lcg = ⟨x, true⟩) :
    exec .lcgNext s = .next (respond (datum32 (lcgStep x)) { s with lcg := ⟨lcgStep x, true⟩ }) := by
  simp only [exec, execLcgNext, h, whenSeeded_true, lcgDraw]

/-- What `LCG.NEXT` on a seeded engine leaves in its engine and in the responses. -/
theorem exec_lcgNext_leaves {s : State} {x : Word32} (h : s.lcg = ⟨x, true⟩) :
    ∃ t, exec .lcgNext s = .next t ∧ t.lcg = ⟨lcgStep x, true⟩ ∧
      t.responses = s.responses ++ [⟨.ok, datum32 (lcgStep x)⟩] :=
  ⟨_, exec_lcgNext h, respond_lcg _ _, respond_responses _ _⟩

theorem lcg_eq_of_seeded {s : State} (h : s.lcg.seeded = true) : s.lcg = ⟨s.lcg.state, true⟩ := by
  rw [← h]

/-- Settles O14: the low half of the operand is its residue modulo 2^32. -/
theorem lcgSeedLoads : Obligations.LcgSeedLoads := by
  intro a s
  rw [exec_lcgSeed, low32_eq_ofNat]
  rfl

/-- Settles O15: the step of the model is the recurrence on numbers. -/
theorem lcgNextSteps : Obligations.LcgNextSteps := by
  intro s hflag new
  have hstep : lcgStep s.lcg.state = BitVec.ofNat 32 new := lcgStep_eq_ofNat s.lcg.state
  have hdatum : datum32 (lcgStep s.lcg.state) = BitVec.ofNat 67 new := by
    rw [datum32_eq_ofNat, lcgStep_toNat]
  rw [exec_lcgNext (lcg_eq_of_seeded hflag), hdatum, hstep]
  rfl

end Sys2Proof.Machine
end

section
/-! The laws of the `lcg` engine that the spec derives from its two commands (40_lcg.md R112 to R114). -/

namespace Sys2Proof.Machine

/-- The seed that an integer operand stands for is its residue modulo 2^32: 2^32 divides the modulus of the operand. -/
theorem low32_operandOfInt_toNat (v : Int) : ((low32 (operandOfInt v)).toNat : Int) = v % 2 ^ 32 := by
  rw [low32_toNat, operandOfInt, BitVec.toNat_ofInt]
  omega

theorem runCommands_cons {i : Instr} {s t : State} (h : exec i s = .next t) (is : List Instr) :
    runCommands (i :: is) s = runCommands is t := by
  simp only [runCommands, h]

/-- Settles O16: the recurrence, taken modulo 2^32, looks at its argument modulo 2^32 alone. -/
theorem lcgSeedReductionLosesNothing : Obligations.LcgSeedReductionLosesNothing := by
  intro v s
  have hseed := low32_operandOfInt_toNat v
  have hdatum : (datum32 (lcgStep (low32 (operandOfInt v)))).toNat =
      (1664525 * (low32 (operandOfInt v)).toNat + 1013904223) % 2 ^ 32 := by
    rw [datum32_toNat, lcgStep_toNat]
  obtain ⟨t, hnext, -, hresponses⟩ :=
    exec_lcgNext_leaves (s := respond 0 { s with lcg := ⟨low32 (operandOfInt v), true⟩ }) (respond_lcg _ _)
  refine ⟨t, datum32 (lcgStep (low32 (operandOfInt v))), ?_, ?_, ?_, ?_⟩
  · exact (runCommands_cons (exec_lcgSeed _ s) _).trans (runCommands_cons hnext [])
  · rw [hresponses, respond_responses, List.append_assoc]
    rfl
  · omega
  · omega

/-- The inverse of the multiplier modulo 2^32. -/
def lcgMultiplierInverse : Word32 := 4276115653

theorem lcgMultiplierInverse_mul : lcgMultiplierInverse * lcgMultiplier = 1 := by decide

/-- The transition has an inverse: take the increment away, then undo the multiplication. -/
theorem lcgStep_bijective : Function.Bijective lcgStep := by
  refine Function.bijective_iff_has_inverse.2
    ⟨fun y => lcgMultiplierInverse * (y - lcgIncrement), fun x => ?_, fun y => ?_⟩
  · calc lcgMultiplierInverse * (lcgStep x - lcgIncrement)
        = lcgMultiplierInverse * lcgMultiplier * x := by rw [lcgStep, add_sub_cancel_right, mul_assoc]
      _ = x := by rw [lcgMultiplierInverse_mul, one_mul]
  · calc lcgStep (lcgMultiplierInverse * (y - lcgIncrement))
        = lcgMultiplierInverse * lcgMultiplier * (y - lcgIncrement) + lcgIncrement := by
          rw [lcgStep, ← mul_assoc, mul_comm lcgMultiplier]
      _ = y := by rw [lcgMultiplierInverse_mul, one_mul, sub_add_cancel]

/-- The transition changes the parity, since the multiplier and the increment are odd. -/
theorem lcgStep_ne_self (x : Word32) : lcgStep x ≠ x := by
  intro h
  have hx := (congrArg BitVec.toNat h).symm.trans (lcgStep_toNat x)
  omega

/-- The state that `LCG.NEXT` leaves is the transition's. -/
theorem exec_lcgNext_leaves_iff (s : State) (x y : Word32) :
    (∃ t, exec .lcgNext { s with lcg := ⟨x, true⟩ } = .next t ∧ t.lcg.state = y) ↔ lcgStep x = y := by
  rw [exec_lcgNext rfl]
  simp only [Host.Outcome.next.injEq, exists_eq_left', respond_lcg]

/-- Settles O17: the transition is a bijection without a fixed point. -/
theorem lcgTransitionBijective : Obligations.LcgTransitionBijective := by
  constructor
  · intro s y
    simp only [exec_lcgNext_leaves_iff]
    exact lcgStep_bijective.existsUnique y
  · exact fun s hflag => ⟨_, exec_lcgNext (lcg_eq_of_seeded hflag), lcgStep_ne_self s.lcg.state⟩

theorem touches_of_decode_lcgNext {w : CommandWord} (h : decode w = .ok .lcgNext) : touches .lcg w = true :=
  touches_iff.2 ⟨_, h, .inl rfl⟩

/-- The run of R114: from a legal state with the engine at `x`, the words before the last `LCG.NEXT` take the engine one
transition further for each `LCG.NEXT` among them and leave it as it was for every other word. -/
theorem run_issuing_lcg {w1 : CommandWord} (h1 : decode w1 = .ok .lcgNext) (ws : List CommandWord)
    (hws : ∀ w ∈ ws, decode w = .ok .lcgNext ∨ touches .lcg w = false) :
    ∀ {s : State} {x : Word32}, Legal s → s.lcg = ⟨x, true⟩ →
      ∃ t, core.run (ws ++ [w1]).length (issuing (ws ++ [w1]) s) = .next t ∧
        t.lcg = ⟨lcgStep^[ws.countP (touches .lcg) + 1] x, true⟩ ∧
        lastResponse t = some ⟨.ok, datum32 (lcgStep^[ws.countP (touches .lcg) + 1] x)⟩ := by
  induction ws with
  | nil =>
    intro s x _ hx
    rw [List.countP_nil, Function.iterate_one]
    obtain ⟨t, hnext, hlcg, hresponses⟩ := exec_lcgNext_leaves (s := issuing [] s) hx
    refine ⟨issuing [] t, run_issuing_cons ((performCommand_ok h1 _).trans hnext), hlcg, ?_⟩
    exact (congrArg List.getLast? hresponses).trans List.getLast?_concat
  | cons w ws ih =>
    intro s x hs hx
    obtain ⟨hw, hrest⟩ := List.forall_mem_cons.1 hws
    obtain ⟨u, hu, hlegal⟩ := performCommand_completes (s := issuing (ws ++ [w1]) s) hs w
    rw [List.cons_append, run_issuing_cons hu]
    obtain draws | untouched := hw
    · obtain ⟨t, hnext, stepped, -⟩ := exec_lcgNext_leaves (s := issuing (ws ++ [w1]) s) hx
      have hdraw := (performCommand_ok draws (issuing (ws ++ [w1]) s)).trans hnext
      cases hu.symm.trans hdraw
      rw [List.countP_cons_of_pos (touches_of_decode_lcgNext draws), Function.iterate_succ_apply]
      exact ih hrest hlegal stepped
    · have kept : (issuing (ws ++ [w1]) s).lcg = u.lcg := performCommand_untouched untouched hu
      rw [List.countP_cons_of_neg (Bool.eq_false_iff.1 untouched)]
      exact ih hrest hlegal (kept.symm.trans hx)

/-- Settles O18: the seeding leaves the engine at `a mod 2^32`, and the run goes on from there. -/
theorem lcgKthDraw : Obligations.LcgKthDraw := by
  intro a s w0 w1 ws hs h0 h1 hws k sk
  have hsk : (lcgStep^[k] (low32 a)).toNat = sk := by rw [lcgStep_iterate_toNat, low32_toNat]
  have hseed : performCommand w0 (issuing (ws ++ [w1]) s) =
      .next (respond 0 { issuing (ws ++ [w1]) s with lcg := ⟨low32 a, true⟩ }) :=
    (performCommand_ok h0 _).trans (exec_lcgSeed a _)
  obtain ⟨t, hrun, hlcg, hlast⟩ := run_issuing_lcg h1 ws hws
    (s := respond 0 { issuing (ws ++ [w1]) s with lcg := ⟨low32 a, true⟩ }) hs rfl
  have hlength : ws.length + 2 = (w0 :: (ws ++ [w1])).length := by simp
  refine ⟨t, ?_, ?_, ?_⟩
  · rw [hlength]
    exact (run_issuing_cons hseed).trans hrun
  · rw [hlcg, ← hsk, BitVec.ofNat_toNat, BitVec.setWidth_eq]
  · rw [hlast, ← hsk, ← datum32_eq_ofNat]

end Sys2Proof.Machine
end

section
/-! The xor of a word with a shifted copy of itself is undone bit by bit, from the end that the shift leaves alone
(41_xorshift128.md R134). -/

namespace Sys2Proof.Machine

/-- A word can be told from its xor with a mask that is made from it, when every bit of the mask depends only on bits
that come earlier in some well-founded order: in that order the bits are recovered one after another. -/
theorem xor_injective_of_wellFounded {w : Nat} {before : Fin w → Fin w → Prop} (hwf : WellFounded before)
    {mask : BitVec w → BitVec w}
    (hmask : ∀ x y (i : Fin w), (∀ j, before j i → x[j] = y[j]) → (mask x)[i] = (mask y)[i]) :
    Function.Injective fun x => x ^^^ mask x := by
  intro x y (h : x ^^^ mask x = y ^^^ mask y)
  have bits : ∀ i : Fin w, x[i] = y[i] := fun i => by
    induction i using hwf.induction with
    | h i ih =>
      have hi : (x[i] ^^ (mask x)[i]) = (y[i] ^^ (mask y)[i]) := by
        simpa only [Fin.getElem_fin, BitVec.getElem_xor] using congrArg (·[i]) h
      rwa [hmask x y i ih, Bool.xor_left_inj] at hi
  exact BitVec.eq_of_getElem_eq fun i hi => bits ⟨i, hi⟩

/-- A left shift brings to each bit a lower one, or 0. -/
theorem xor_shiftLeft_injective {w n : Nat} (hn : 0 < n) :
    Function.Injective fun x : BitVec w => x ^^^ (x <<< n) := by
  refine xor_injective_of_wellFounded (before := (· < ·)) wellFounded_lt fun x y i lower => ?_
  simp only [Fin.getElem_fin, BitVec.getElem_shiftLeft]
  by_cases hi : i.val < n
  · simp [hi]
  · have source : x[i.val - n] = y[i.val - n] :=
      lower ⟨i - n, by omega⟩ (show i.val - n < i.val by omega)
    simp [hi, source]

/-- A right shift brings to each bit a higher one, or 0. -/
theorem xor_ushiftRight_injective {w n : Nat} (hn : 0 < n) :
    Function.Injective fun x : BitVec w => x ^^^ (x >>> n) := by
  refine xor_injective_of_wellFounded (before := (· > ·)) wellFounded_gt fun x y i higher => ?_
  simp only [Fin.getElem_fin, BitVec.getElem_ushiftRight]
  by_cases hi : n + i.val < w
  · have source : x[n + i.val] = y[n + i.val] :=
      higher ⟨n + i, hi⟩ (show i.val < n + i.val by omega)
    simp only [BitVec.getLsbD_eq_getElem hi, source]
  · rw [BitVec.getLsbD_of_ge _ _ (by omega), BitVec.getLsbD_of_ge _ _ (by omega)]

end Sys2Proof.Machine
end

section
/-! The `xs` engine (41_xorshift128.md): the recurrence on numbers, what its two commands leave behind, and the zero
cases. -/

namespace Sys2Proof.Machine

theorem xsStep_fst (x y : Word64) : (xsStep x y).1 = (x ^^^ (x <<< 23)) ^^^ (y ^^^ (y >>> 17)) := rfl

/-- The new `y` does not look at `x` (R133 b). -/
theorem xsStep_snd (x y : Word64) :
    (xsStep x y).2 = (y ^^^ (y >>> 17)) ^^^ ((y ^^^ (y >>> 17)) <<< 26) := rfl

theorem xor_shiftLeft_toNat {w : Nat} (v : BitVec w) (n : Nat) :
    (v ^^^ (v <<< n)).toNat = v.toNat ^^^ (v.toNat * 2 ^ n % 2 ^ w) := by
  rw [BitVec.toNat_xor, BitVec.toNat_shiftLeft, Nat.shiftLeft_eq]

theorem xor_ushiftRight_toNat {w : Nat} (v : BitVec w) (n : Nat) :
    (v ^^^ (v >>> n)).toNat = v.toNat ^^^ (v.toNat / 2 ^ n) := by
  rw [BitVec.toNat_xor, BitVec.toNat_ushiftRight, Nat.shiftRight_eq_div_pow]

/-- R131's new `x` on numbers: the third update takes the `y` of the second. -/
theorem xsStep_fst_toNat (x y : Word64) : (xsStep x y).1.toNat =
    (x.toNat ^^^ (x.toNat * 2 ^ 23 % 2 ^ 64)) ^^^ (y.toNat ^^^ (y.toNat / 2 ^ 17)) := by
  rw [xsStep_fst, BitVec.toNat_xor, xor_shiftLeft_toNat, xor_ushiftRight_toNat]

/-- R131's new `y` on numbers. -/
theorem xsStep_snd_toNat (x y : Word64) : (xsStep x y).2.toNat =
    (y.toNat ^^^ (y.toNat / 2 ^ 17)) ^^^ ((y.toNat ^^^ (y.toNat / 2 ^ 17)) * 2 ^ 26 % 2 ^ 64) := by
  rw [xsStep_snd, xor_shiftLeft_toNat, xor_ushiftRight_toNat]

/-- From `y = 0` the step is the left shift of `x` alone (R133 b). -/
theorem xsStep_zero_right (x : Word64) : xsStep x 0 = (x ^^^ (x <<< 23), 0) :=
  Prod.ext ((xsStep_fst x 0).trans BitVec.xor_zero) rfl

theorem datum64_eq_ofNat (n : Word64) : datum64 n = BitVec.ofNat 67 n.toNat := (BitVec.ofNat_toNat 67 n).symm

theorem exec_xsSeed (a b : Word64) (s : State) :
    exec (.xsSeed a b) s = .next (respond 0 { s with xs := ⟨a, b, true⟩ }) := rfl

/-- `XS.NEXT` on a seeded engine writes the new pair and answers the new `x` (R131-code). -/
theorem exec_xsNext {s : State} {x y : Word64} (h : s.xs = ⟨x, y, true⟩) :
    exec .xsNext s =
      .next (respond (datum64 (xsStep x y).1) { s with xs := ⟨(xsStep x y).1, (xsStep x y).2, true⟩ }) := by
  simp only [exec, execXsNext, h, whenSeeded_true, xsDraw]

theorem xs_eq_of_seeded {s : State} (h : s.xs.seeded = true) : s.xs = ⟨s.xs.x, s.xs.y, true⟩ := by
  rw [← h]

/-- What `XS.NEXT` on a seeded engine leaves in its engine. -/
theorem xs_of_exec_xsNext {s t : State} (hflag : s.xs.seeded = true) (h : exec .xsNext s = .next t) :
    t.xs = ⟨(xsStep s.xs.x s.xs.y).1, (xsStep s.xs.x s.xs.y).2, true⟩ := by
  rw [exec_xsNext (xs_eq_of_seeded hflag)] at h
  rw [← Host.Outcome.next.inj h, respond_xs]

/-- Settles O19: the seeds are loaded as they are. -/
theorem xsSeedLoads : Obligations.XsSeedLoads := exec_xsSeed

/-- Settles O20: the step of the model is the recurrence on numbers, and both new words are below 2^64. -/
theorem xsNextSteps : Obligations.XsNextSteps := by
  intro s hflag x1 y1 x2 y2
  have hx : (xsStep s.xs.x s.xs.y).1.toNat = x2 := xsStep_fst_toNat s.xs.x s.xs.y
  have hy : (xsStep s.xs.x s.xs.y).2.toNat = y2 := xsStep_snd_toNat s.xs.x s.xs.y
  refine ⟨hx ▸ BitVec.isLt _, hy ▸ BitVec.isLt _, ?_⟩
  rw [exec_xsNext (xs_eq_of_seeded hflag), ← hx, ← hy, ← datum64_eq_ofNat, BitVec.ofNat_toNat, BitVec.ofNat_toNat,
    BitVec.setWidth_eq, BitVec.setWidth_eq]
  rfl

/-- Settles O21: the step from `y = 0` for the zero pair and for the last clause, and the new `y`, which does not look
at `x`, for the one between. -/
theorem xsZeroCases : Obligations.XsZeroCases := by
  refine ⟨fun s hxs => ?_, fun s t s' t' hy hs ht hs' ht' => ?_, fun s hflag hy => ?_⟩
  · have fixed : xsStep 0 0 = (0, 0) := xsStep_zero_right 0
    rw [exec_xsNext hxs, fixed, ← hxs]
    rfl
  · rw [xs_of_exec_xsNext hs hs', xs_of_exec_xsNext ht ht', xsStep_snd, xsStep_snd, hy]
  · have hxs : s.xs = ⟨s.xs.x, 0, true⟩ := hy ▸ xs_eq_of_seeded hflag
    refine ⟨_, exec_xsNext hxs, ?_, ?_⟩
    · rw [respond_xs, xsStep_zero_right]
    · rw [respond_xs, xsStep_zero_right, xor_shiftLeft_toNat]

end Sys2Proof.Machine
end

section
/-! The transition of the `xs` engine is a bijection of the pairs (41_xorshift128.md R134). -/

namespace Sys2Proof.Machine

/-- The four updates are undone from the last to the first: `y2` gives `y1` and `y1` gives `y`; `x2` and `y1` give `x1`,
and that gives `x`. -/
theorem xsStep_injective : Function.Injective fun p : Word64 × Word64 => xsStep p.1 p.2 := by
  rintro ⟨x, y⟩ ⟨x', y'⟩ (h : xsStep x y = xsStep x' y')
  have hy1 : y ^^^ (y >>> 17) = y' ^^^ (y' >>> 17) :=
    xor_shiftLeft_injective (n := 26) (by decide) (congrArg Prod.snd h)
  have hx1 : x ^^^ (x <<< 23) = x' ^^^ (x' <<< 23) := by
    have hx2 : (xsStep x y).1 = (xsStep x' y').1 := congrArg Prod.fst h
    rwa [xsStep_fst, xsStep_fst, hy1, BitVec.xor_left_inj] at hx2
  exact Prod.ext (xor_shiftLeft_injective (by decide) hx1) (xor_ushiftRight_injective (by decide) hy1)

/-- There are finitely many pairs, so the transition also reaches every one. -/
theorem xsStep_bijective : Function.Bijective fun p : Word64 × Word64 => xsStep p.1 p.2 :=
  Finite.injective_iff_bijective.1 xsStep_injective

/-- The pair that `XS.NEXT` leaves is the transition's. -/
theorem exec_xsNext_leaves_iff (s : State) (p : Word64 × Word64) (x y : Word64) :
    (∃ t, exec .xsNext { s with xs := ⟨p.1, p.2, true⟩ } = .next t ∧ t.xs.x = x ∧ t.xs.y = y) ↔
      xsStep p.1 p.2 = (x, y) := by
  rw [exec_xsNext rfl, Prod.ext_iff]
  simp only [Host.Outcome.next.injEq, exists_eq_left', respond_xs]

/-- Settles O22: what `XS.NEXT` leaves is the transition's pair, and the transition is a bijection. -/
theorem xsTransitionBijective : Obligations.XsTransitionBijective := by
  intro s x y
  simp only [exec_xsNext_leaves_iff]
  exact xsStep_bijective.existsUnique (x, y)

end Sys2Proof.Machine
end

section
/-! The twist of the `mt` engine (42_mersenne_twister.md): one iteration on numbers, and what each word of a twisted
array is made of (R153, R154). -/

namespace Sys2Proof.Machine

/-- The number `y` of block R153-code: the top bit of one word and the low 31 bits of the next. -/
def twistJoin (cur nxt : Word32) : Nat := (cur.toNat / 2 ^ 31) * 2 ^ 31 + nxt.toNat % 2 ^ 31

theorem twistJoin_eq_zero_iff (cur nxt : Word32) :
    twistJoin cur nxt = 0 ↔ cur.toNat < 2 ^ 31 ∧ nxt.toNat % 2 ^ 31 = 0 := by
  unfold twistJoin
  omega

theorem twistJoin_lt (cur nxt : Word32) : twistJoin cur nxt < 2 ^ 32 := by
  have := cur.isLt
  unfold twistJoin
  omega

/-- The two masks of R153-code take the top bit of one word and the low bits of the other; they share no bit, so `|||`
adds. -/
theorem toNat_mask_or_mask (cur nxt : Word32) :
    ((cur &&& 0x80000000) ||| (nxt &&& 0x7FFFFFFF)).toNat = twistJoin cur nxt := by
  have hi : cur.toNat &&& 2 ^ 31 = 2 ^ 31 * (cur.toNat / 2 ^ 31) := by
    have := cur.isLt
    rw [Nat.and_two_pow, Nat.toNat_testBit]
    omega
  have lo : nxt.toNat &&& (2 ^ 31 - 1) = nxt.toNat % 2 ^ 31 := Nat.and_two_pow_sub_one_eq_mod _ _
  calc ((cur &&& 0x80000000) ||| (nxt &&& 0x7FFFFFFF)).toNat
      = (cur.toNat &&& 2 ^ 31) ||| (nxt.toNat &&& (2 ^ 31 - 1)) := by
        rw [BitVec.toNat_or, BitVec.toNat_and, BitVec.toNat_and]
        rfl
    _ = twistJoin cur nxt := by
        rw [hi, lo, ← Nat.two_pow_add_eq_or_of_lt (Nat.mod_lt _ (by decide)), mul_comm, twistJoin]

/-- One twist iteration on numbers (R153-code, the loop's body). -/
theorem twistWord_toNat (cur nxt far : Word32) :
    (twistWord cur nxt far).toNat =
      far.toNat ^^^ (twistJoin cur nxt / 2) ^^^ (if twistJoin cur nxt % 2 = 1 then 0x9908B0DF else 0) := by
  have odd_iff : ((cur &&& 0x80000000) ||| (nxt &&& 0x7FFFFFFF)).getLsbD 0 = true ↔ twistJoin cur nxt % 2 = 1 := by
    rw [BitVec.getLsbD, toNat_mask_or_mask, Nat.testBit_zero, decide_eq_true_iff]
  simp only [twistWord, odd_iff]
  split
  · rw [BitVec.toNat_xor, BitVec.toNat_xor, BitVec.toNat_ushiftRight, toNat_mask_or_mask, Nat.shiftRight_eq_div_pow,
      pow_one]
    rfl
  · rw [BitVec.toNat_xor, BitVec.toNat_ushiftRight, toNat_mask_or_mask, Nat.shiftRight_eq_div_pow, pow_one,
      Nat.xor_zero]

/-- A new word that is 0 and is made with a word 0 has no bit of the two other words in it: an odd `y` would set the top
bit, and an even one is kept whole by the shift. -/
theorem bits_zero_of_twistWord {cur nxt far : Word32} (hfar : far = 0) (h : twistWord cur nxt far = 0) :
    cur.toNat < 2 ^ 31 ∧ nxt.toNat % 2 ^ 31 = 0 := by
  subst hfar
  have hlt := twistJoin_lt cur nxt
  have hzero : 0 ^^^ (twistJoin cur nxt / 2) ^^^ (if twistJoin cur nxt % 2 = 1 then 0x9908B0DF else 0) = 0 :=
    (twistWord_toNat cur nxt 0).symm.trans (congrArg BitVec.toNat h)
  rw [Nat.zero_xor, Nat.xor_eq_zero_iff] at hzero
  rw [← twistJoin_eq_zero_iff]
  split at hzero <;> omega

/-- A word of the twisted array is what its own iteration made of the array as it stood then. -/
theorem twist_getElem (w : MtWords) {i nxt far : Nat} (hi : i < 624) (hnxt : nxt < 624) (hfar : far < 624)
    (nxt_eq : (i + 1) % 624 = nxt) (far_eq : (i + 397) % 624 = far) :
    (twist w)[i] = twistWord w[i] (twistUpTo w i hi.le)[nxt] (twistUpTo w i hi.le)[far] := by
  subst nxt_eq far_eq
  rw [twist, twistUpTo_written w i hi 624 _ hi, twistUpTo, twistAt_same, twistUpTo_later w i _ i hi le_rfl]

/-- A word that iteration `n` finds already written is the twisted array's. -/
theorem twistUpTo_getElem_of_lt (w : MtWords) {j n : Nat} (hn : n ≤ 624) (hjn : j < n) :
    (twistUpTo w n hn)[j] = (twist w)[j] := by
  rw [twist, twistUpTo_written w j (by omega) n hn hjn, twistUpTo_written w j (by omega) 624 _ (by omega)]

/-- Words 0 to 226 are made of old words (R154). -/
theorem twist_getElem_low (w : MtWords) {i : Nat} (h : i + 397 < 624) :
    (twist w)[i] = twistWord w[i] w[i + 1] w[i + 397] := by
  rw [twist_getElem w _ (by omega) h (Nat.mod_eq_of_lt (by omega)) (Nat.mod_eq_of_lt h),
    twistUpTo_later w i _ (i + 1) _ (by omega), twistUpTo_later w i _ (i + 397) _ (by omega)]

/-- Words 227 to 622 are made of old words and of a word this twist has already written (R154). -/
theorem twist_getElem_high (w : MtWords) {i : Nat} (h : i + 228 < 624) :
    (twist w)[i + 227] = twistWord w[i + 227] w[i + 228] (twist w)[i] := by
  rw [twist_getElem w _ h (by omega) (Nat.mod_eq_of_lt h) (far := i) (by omega),
    twistUpTo_later w (i + 227) _ (i + 228) _ (by omega), twistUpTo_getElem_of_lt w _ (by omega)]

/-- Word 623 is made of its old self and of two words this twist has already written (R154). -/
theorem twist_getElem_last (w : MtWords) : (twist w)[623] = twistWord w[623] (twist w)[0] (twist w)[396] := by
  rw [twist_getElem w _ (by decide) (by decide) (nxt := 0) rfl (far := 396) rfl,
    twistUpTo_getElem_of_lt w _ (by decide), twistUpTo_getElem_of_lt w _ (by decide)]

/-- Settles O25: the three ranges of indices, each word by the iteration on numbers. -/
theorem twistOldAndNewWords : Obligations.TwistOldAndNewWords := by
  intro w
  refine ⟨fun i h => ?_, fun i h => ?_, ?_⟩
  · rw [twist_getElem_low w h]
    exact twistWord_toNat _ _ _
  · rw [twist_getElem_high w h]
    exact twistWord_toNat _ _ _
  · rw [twist_getElem_last w]
    exact twistWord_toNat _ _ _

end Sys2Proof.Machine
end

section
/-! The all-zero array is never reached (42_mersenne_twister.md R157): a twist that gives it has started from it, and no
seeding gives it. -/

namespace Sys2Proof.Machine

/-- The array has none of the bits that the twist looks at. -/
theorem not_latticeAlive_iff (w : MtWords) :
    ¬ latticeAlive w ↔ w[0].toNat < 2 ^ 31 ∧ ∀ (i : Nat) (h : i < 624), 0 < i → w[i] = 0 := by
  have top : w[0].getLsbD 31 = true ↔ 2 ^ 31 ≤ w[0].toNat :=
    BitVec.msb_eq_getLsbD_last w[0] ▸ BitVec.msb_eq_true_iff_two_mul_ge.trans (by omega)
  rw [latticeAlive, top, not_or, not_exists, Nat.not_le]
  refine and_congr_right fun _ => ⟨fun h i hi hpos => ?_, fun h i => ?_⟩
  · by_contra hne
    exact h ⟨i, hi⟩ ⟨hpos, hne⟩
  · rintro ⟨hpos, hne⟩
    exact hne (h i i.isLt hpos)

theorem eq_zero_of_low_of_top {v : Word32} (low : v.toNat % 2 ^ 31 = 0) (top : v.toNat < 2 ^ 31) : v = 0 :=
  BitVec.eq_of_toNat_eq (show v.toNat = 0 by omega)

/-- A twisted array without a bit of the lattice is 0 in word 0 too: word 623 was made with it. So was the top bit of the
old word 623. -/
theorem zero_of_not_latticeAlive_twist {w : MtWords} (dead : ¬ latticeAlive (twist w)) :
    w[623].toNat < 2 ^ 31 ∧ ∀ (i : Nat) (h : i < 624), (twist w)[i] = 0 := by
  obtain ⟨top, later⟩ := (not_latticeAlive_iff _).1 dead
  have last := (twist_getElem_last w).symm.trans (later 623 (by decide) (by decide))
  obtain ⟨oldTop, low⟩ := bits_zero_of_twistWord (later 396 (by decide) (by decide)) last
  refine ⟨oldTop, fun i h => ?_⟩
  rcases Nat.eq_zero_or_pos i with rfl | hpos
  · exact eq_zero_of_low_of_top low top
  · exact later i h hpos

/-- Then the old words from 228 on were 0, and the top bit of the old word 227 was. -/
theorem old_high_of_not_latticeAlive_twist {w : MtWords} (dead : ¬ latticeAlive (twist w)) :
    w[227].toNat < 2 ^ 31 ∧ ∀ (i : Nat) (h : i + 228 < 624), w[i + 228] = 0 := by
  obtain ⟨top623, new⟩ := zero_of_not_latticeAlive_twist dead
  have made : ∀ (i : Nat) (h : i + 228 < 624), w[i + 227].toNat < 2 ^ 31 ∧ w[i + 228].toNat % 2 ^ 31 = 0 :=
    fun i h => bits_zero_of_twistWord (new i (by omega)) ((twist_getElem_high w h).symm.trans (new (i + 227) _))
  refine ⟨(made 0 (by decide)).1, fun i h => eq_zero_of_low_of_top (made i h).2 ?_⟩
  by_cases hi : i + 229 < 624
  · exact (made (i + 1) hi).1
  · obtain rfl : i = 395 := by omega
    exact top623

/-- No twist leads to the all-zero array: with the old words from 228 on at 0, the other new words leave no bit to the
earlier old ones either. -/
theorem latticeAlive_twist {w : MtWords} (alive : latticeAlive w) : latticeAlive (twist w) := by
  by_contra dead
  obtain ⟨-, new⟩ := zero_of_not_latticeAlive_twist dead
  obtain ⟨top227, high⟩ := old_high_of_not_latticeAlive_twist dead
  have made : ∀ (i : Nat) (h : i + 397 < 624), w[i].toNat < 2 ^ 31 ∧ w[i + 1].toNat % 2 ^ 31 = 0 :=
    fun i h => bits_zero_of_twistWord (high (i + 169) h) ((twist_getElem_low w h).symm.trans (new i _))
  refine (not_latticeAlive_iff w).2 ⟨(made 0 (by decide)).1, fun i h hpos => ?_⟩ alive
  rcases Nat.lt_or_ge i 228 with early | late
  · obtain ⟨i, rfl⟩ := Nat.exists_eq_add_of_le' hpos
    refine eq_zero_of_low_of_top (made i (by omega)).2 ?_
    by_cases hi : i + 1 < 227
    · exact (made (i + 1) (by omega)).1
    · obtain rfl : i = 226 := by omega
      exact top227
  · obtain ⟨i, rfl⟩ := Nat.exists_eq_add_of_le' late
    exact high i h

/-- No seeding leads to the all-zero array (R157): after a word 0, word 2 is `0 + 2`. -/
theorem latticeAlive_mtSeed (a : Word64) : latticeAlive (mtSeed a).word := by
  by_contra dead
  obtain ⟨-, later⟩ := (not_latticeAlive_iff _).1 dead
  have word1 : mtInitWord (low32 a) 1 = 0 := (mtSeed_word a 1 _).symm.trans (later 1 (by decide) (by decide))
  have word2 : mtInitStep (mtInitWord (low32 a) 1) 2 = 0 :=
    (mtSeed_word a 2 _).symm.trans (later 2 (by decide) (by decide))
  rw [word1] at word2
  exact absurd word2 (by decide)

/-- A draw keeps the array, or twists it. -/
theorem latticeAlive_mtDraw {e : Mt} {d : Mt × Word32} (alive : latticeAlive e.word) (h : mtDraw e = .ok d) :
    latticeAlive d.1.word := by
  obtain ⟨_, hdraw⟩ | ⟨-, hdraw⟩ := mtDraw_cases e
  · cases hdraw.symm.trans h
    show latticeAlive (if e.cursor = 0 then twist e.word else e.word)
    split
    · exact latticeAlive_twist alive
    · exact alive
  · cases hdraw.symm.trans h

theorem AllUnseeded.twisterAlive {s : State} (h : AllUnseeded s) : TwisterAlive s :=
  fun hmt => absurd hmt (Bool.eq_false_iff.1 (h .mt))

/-- Of the commands, only the `SEED`, the `NEXT` and the `COMBINE`s write the `mt` engine. -/
theorem Completes.twisterAlive {i : Instr} {s t : State} (h : Completes s i t) (alive : TwisterAlive s) :
    TwisterAlive t := by
  cases h with
  | seedMt a => exact fun _ => latticeAlive_mtSeed a
  | drawMt hflag hdraw => exact fun _ => latticeAlive_mtDraw (alive hflag) hdraw
  | combineClk | combineSeed => exact (allUnseeded_afterCombine _ _).twisterAlive
  | seedLcg | seedXs | seedPcg | seedLag | notSeeded | drawLcg | drawXs | drawPcg | drawLag => exact alive

/-- Settles O28, by what a step can do; a reset move leaves any array, but no engine seeded. -/
theorem stepKeepsTwisterAlive : Obligations.StepKeepsTwisterAlive := by
  intro s t alive h
  obtain ⟨-, hstep⟩ | ⟨rest, -, hstep⟩ | ⟨w, rest, i, -, -, hstep⟩ | ⟨w, rest, e, -, -, hstep⟩ := step_cases s
  · cases hstep.symm.trans h
    exact alive
  · cases hstep.symm.trans h
    exact (allUnseeded_applyReset _).twisterAlive
  · exact (completes_of_exec (hstep.symm.trans h)).twisterAlive alive
  · cases hstep.symm.trans h
    exact alive

end Sys2Proof.Machine
end

section
/-! The tempering (42_mersenne_twister.md R152): its four steps on numbers, and that each of them can be undone. -/

namespace Sys2Proof.Machine

/-- A masked left shift needs no reduction on numbers: the mask has no bit beyond the width. -/
theorem xor_shiftLeft_and_toNat {w : Nat} (v mask : BitVec w) (n : Nat) :
    (v ^^^ ((v <<< n) &&& mask)).toNat = v.toNat ^^^ (v.toNat * 2 ^ n &&& mask.toNat) := by
  have inRange : (v.toNat * 2 ^ n &&& mask.toNat) < 2 ^ w := Nat.and_le_right.trans_lt mask.isLt
  rw [BitVec.toNat_xor, BitVec.toNat_and, BitVec.toNat_shiftLeft, Nat.shiftLeft_eq, ← Nat.mod_eq_of_lt inRange,
    Nat.and_mod_two_pow, Nat.mod_eq_of_lt mask.isLt]

/-- A masked left shift brings to each bit a lower one, or 0. -/
theorem xor_shiftLeft_and_injective {w n : Nat} (hn : 0 < n) (mask : BitVec w) :
    Function.Injective fun x : BitVec w => x ^^^ ((x <<< n) &&& mask) := by
  refine xor_injective_of_wellFounded (before := (· < ·)) wellFounded_lt fun x y i lower => ?_
  simp only [Fin.getElem_fin, BitVec.getElem_and, BitVec.getElem_shiftLeft]
  by_cases hi : i.val < n
  · simp [hi]
  · have source : x[i.val - n] = y[i.val - n] :=
      lower ⟨i - n, by omega⟩ (show i.val - n < i.val by omega)
    simp [hi, source]

/-- R152's four steps on numbers. -/
theorem temper_toNat (v : Word32) :
    let y1 := v.toNat ^^^ (v.toNat / 2 ^ 11)
    let y2 := y1 ^^^ (y1 * 2 ^ 7 &&& 0x9D2C5680)
    let y3 := y2 ^^^ (y2 * 2 ^ 15 &&& 0xEFC60000)
    (temper v).toNat = y3 ^^^ (y3 / 2 ^ 18) := by
  simp only [temper, xor_ushiftRight_toNat, xor_shiftLeft_and_toNat]
  rfl

/-- The tempering is undone from its last step to its first. -/
theorem temper_injective : Function.Injective temper :=
  (xor_ushiftRight_injective (n := 18) (by decide)).comp <|
    (xor_shiftLeft_and_injective (n := 15) (by decide) 0xEFC60000).comp <|
      (xor_shiftLeft_and_injective (n := 7) (by decide) 0x9D2C5680).comp <|
        xor_ushiftRight_injective (n := 11) (by decide)

/-- Settles O26: the steps on numbers and their inverses; the words are finitely many, so an injection reaches every one.
The examples are evaluated. -/
theorem temperSteps : Obligations.TemperSteps := by
  refine ⟨temper_toNat, Finite.injective_iff_bijective.1 temper_injective, ?_, ?_, ?_, ?_, ?_⟩ <;> decide

end Sys2Proof.Machine
end

section
/-! The two commands of the `mt` engine (42_mersenne_twister.md R150, R151). -/

namespace Sys2Proof.Machine

/-- R150's recurrence on numbers. -/
theorem mtInitStep_toNat (p : Word32) (i : Nat) :
    (mtInitStep p i).toNat = (1812433253 * (p.toNat ^^^ (p.toNat / 2 ^ 30)) + i) % 2 ^ 32 := by
  have multiplier : mtInitMultiplier.toNat = 1812433253 := by decide
  rw [mtInitStep, BitVec.toNat_add, BitVec.toNat_mul, multiplier, xor_ushiftRight_toNat, BitVec.toNat_ofNat,
    ← Nat.add_mod]

theorem exec_mtSeed (a : Word64) (s : State) : exec (.mtSeed a) s = .next (respond 0 { s with mt := mtSeed a }) := rfl

/-- `MT.NEXT` on a seeded engine is its draw (R151-code). -/
theorem exec_mtNext {s : State} {d : Mt × Word32} (hflag : s.mt.seeded = true) (hdraw : mtDraw s.mt = .ok d) :
    exec .mtNext s = .next (respond (datum32 d.2) { s with mt := d.1 }) :=
  (Completes.drawMt hflag hdraw).exec_eq

/-- Settles O23: the array is the model's own, and each word after the first is one step of the recurrence. -/
theorem mtSeedFills : Obligations.MtSeedFills := by
  refine fun a s => ⟨(mtSeed a).word, exec_mtSeed a s, ?_, fun i h => ?_⟩
  · rw [mtSeed_word]
    exact low32_toNat a
  · rw [mtSeed_word, mtSeed_word]
    exact mtInitStep_toNat (mtInitWord (low32 a) i) (i + 1)

/-- Settles O24: with a legal cursor the draw does not stop. -/
theorem mtNextDraws : Obligations.MtNextDraws := by
  intro s hflag hcursor word
  have zero_iff : s.mt.cursor = 0 ↔ s.mt.cursor.toNat = 0 := BitVec.toNat_eq
  obtain ⟨_, hdraw⟩ | ⟨habsent, -⟩ := mtDraw_cases s.mt
  · rw [exec_mtNext hflag hdraw, datum32_eq_ofNat, hflag]
    simp only [zero_iff]
    rfl
  · omega

end Sys2Proof.Machine
end

section
/-! The schedule of the twists (42_mersenne_twister.md R155): where the `mt` engine stands after any number of draws. -/

namespace Sys2Proof.Machine

/-- The engine seeded with the array `w`, after `n` draws. -/
def mtAfterDraws (w : MtWords) (n : Nat) : Mt :=
  { word := twist^[(n + 623) / 624] w, cursor := BitVec.ofNat 10 (n % 624), seeded := true }

theorem mtAfterDraws_cursor_toNat (w : MtWords) (n : Nat) : (mtAfterDraws w n).cursor.toNat = n % 624 := by
  simp only [mtAfterDraws, BitVec.toNat_ofNat]
  omega

/-- Draw number `n + 1` finds the cursor at 0 exactly when a block is used up; then it is this draw that twists. -/
theorem mtAfterDraws_word_succ (w : MtWords) (n : Nat) :
    (if (mtAfterDraws w n).cursor = 0 then twist (mtAfterDraws w n).word else (mtAfterDraws w n).word) =
      (mtAfterDraws w (n + 1)).word := by
  have zero_iff : (mtAfterDraws w n).cursor = 0 ↔ n % 624 = 0 := by
    rw [← mtAfterDraws_cursor_toNat w n]
    exact BitVec.toNat_eq
  simp only [zero_iff]
  simp only [mtAfterDraws]
  split
  · rw [← Function.iterate_succ_apply' twist]
    congr 1
    omega
  · congr 1
    omega

/-- One draw takes the engine from `n` draws to `n + 1`, and answers the word at the old cursor. -/
theorem mtDraw_mtAfterDraws (w : MtWords) (n : Nat) :
    mtDraw (mtAfterDraws w n) = .ok (mtAfterDraws w (n + 1),
      temper ((mtAfterDraws w (n + 1)).word[n % 624]'(Nat.mod_lt _ (by decide)))) := by
  have hcursor := mtAfterDraws_cursor_toNat w n
  obtain ⟨_, hdraw⟩ | ⟨habsent, -⟩ := mtDraw_cases (mtAfterDraws w n)
  · rw [hdraw]
    simp only [mtAfterDraws_word_succ, hcursor, Nat.mod_add_mod]
    rfl
  · omega

/-- The state has the engine that was seeded with the array `w` and drawn from `n` times, and its last response is that
of the last draw, if there was one. -/
structure HasDrawn (w : MtWords) (n : Nat) (s : State) : Prop where
  mt : s.mt = mtAfterDraws w n
  last : 1 ≤ n → lastResponse s =
    some ⟨.ok, datum32 (temper (s.mt.word[(n - 1) % 624]'(Nat.mod_lt _ (by decide))))⟩

/-- The seeding, before any draw. -/
theorem hasDrawn_zero (a : Word64) (s : State) : HasDrawn (mtSeed a).word 0 (respond 0 { s with mt := mtSeed a }) :=
  ⟨rfl, fun h => absurd h (by decide)⟩

theorem HasDrawn.issue {w : MtWords} {n : Nat} {s : State} (h : HasDrawn w n s) (ws : List CommandWord) :
    HasDrawn w n (issuing ws s) :=
  ⟨h.mt, h.last⟩

/-- One more `MT.NEXT` is one more draw. -/
theorem HasDrawn.draw {w : MtWords} {n : Nat} {s : State} (h : HasDrawn w n s) :
    ∃ t, exec .mtNext s = .next t ∧ HasDrawn w (n + 1) t := by
  have hflag : s.mt.seeded = true := h.mt ▸ rfl
  have hdraw := (congrArg mtDraw h.mt).trans (mtDraw_mtAfterDraws w n)
  exact ⟨_, exec_mtNext hflag hdraw, rfl, fun _ => List.getLast?_concat⟩

/-- A run of `k` words `MT.NEXT` is `k` draws more. -/
theorem HasDrawn.run {w1 : CommandWord} (h1 : decode w1 = .ok .mtNext) {w : MtWords} (k : Nat) :
    ∀ {n : Nat} {s : State}, HasDrawn w n s →
      ∃ t, core.run (List.replicate k w1).length (issuing (List.replicate k w1) s) = .next t ∧
        HasDrawn w (n + k) t := by
  induction k with
  | zero => exact fun h => ⟨_, rfl, h.issue []⟩
  | succ k ih =>
    intro n s h
    obtain ⟨u, hu, drawn⟩ := (h.issue (List.replicate k w1)).draw
    obtain ⟨t, hrun, ht⟩ := ih drawn
    refine ⟨t, (run_issuing_cons ((performCommand_ok h1 _).trans hu)).trans hrun, ?_⟩
    rwa [Nat.add_comm k, ← Nat.add_assoc]

/-- Settles O27: the seeding, and then the run of the draws. -/
theorem mtTwistSchedule : Obligations.MtTwistSchedule := by
  intro a s w0 w1 n h0 h1
  have hseed := (performCommand_ok h0 _).trans (exec_mtSeed a (issuing (List.replicate n w1) s))
  obtain ⟨t, hrun, hmt, hlast⟩ := (hasDrawn_zero a (issuing (List.replicate n w1) s)).run h1 n
  rw [Nat.zero_add] at hmt hlast
  refine ⟨t, ?_, ?_, ?_, ?_, hlast⟩
  · simpa only [List.length_cons, List.length_replicate] using (run_issuing_cons hseed).trans hrun
  · rw [hmt, mtAfterDraws]
  · rw [hmt, mtAfterDraws_cursor_toNat]
  · rw [hmt, mtAfterDraws]

end Sys2Proof.Machine
end

section
/-! The `pcg` engine (43_pcg.md): the transition and the output on numbers, what its two commands leave behind, and the
laws that the spec derives from them. -/

namespace Sys2Proof.Machine

/-- R181's transition on numbers. -/
theorem pcgStep_toNat (old inc : Word64) :
    (pcgStep old inc).toNat = (old.toNat * 6364136223846793005 + inc.toNat) % 2 ^ 64 := by
  have multiplier : pcgMultiplier.toNat = 6364136223846793005 := by decide
  rw [pcgStep, BitVec.toNat_add, BitVec.toNat_mul, multiplier, Nat.mod_add_mod]

theorem pcgStep_eq_ofNat (old inc : Word64) :
    pcgStep old inc = BitVec.ofNat 64 ((old.toNat * 6364136223846793005 + inc.toNat) % 2 ^ 64) := by
  rw [← pcgStep_toNat, BitVec.ofNat_toNat, BitVec.setWidth_eq]

/-- R181's output on numbers: the low 32 bits are taken before the rotation. -/
theorem pcgOutput_eq_ror32 (old : Word64) :
    pcgOutput old =
      ror32 (BitVec.ofNat 32 (((old.toNat / 2 ^ 18) ^^^ old.toNat) / 2 ^ 27 % 2 ^ 32)) (old.toNat / 2 ^ 59) := by
  simp only [pcgOutput, low32_eq_ofNat, BitVec.toNat_ushiftRight, BitVec.toNat_xor, Nat.shiftRight_eq_div_pow]

/-- A state below 2^27 has no bit that the last shift leaves over (R181, corner cases). -/
theorem pcgOutput_eq_zero {old : Word64} (h : old.toNat < 2 ^ 27) : pcgOutput old = 0 := by
  have high : old.toNat / 2 ^ 18 < 2 ^ 27 := (Nat.div_le_self _ _).trans_lt h
  have xorshifted : ((old.toNat / 2 ^ 18) ^^^ old.toNat) / 2 ^ 27 = 0 :=
    Nat.div_eq_of_lt (Nat.xor_lt_two_pow high h)
  have rot : old.toNat / 2 ^ 59 = 0 := by omega
  rw [pcgOutput_eq_ror32, xorshifted, rot, ror32_zero]
  rfl

/-- The inverse of the multiplier modulo 2^64. -/
def pcgMultiplierInverse : Word64 := 13877824140714322085

theorem pcgMultiplier_mul_inverse : pcgMultiplier * pcgMultiplierInverse = 1 := by decide

/-- The transition is a multiplication by a unit and a translation, whatever the increment (R184). -/
theorem pcgStep_bijective (inc : Word64) : Function.Bijective fun old => pcgStep old inc :=
  (AddGroup.addRight_bijective inc).comp
    (IsUnit.isUnit_iff_mulRight_bijective.1 (.of_mul_eq_one _ pcgMultiplier_mul_inverse))

theorem exec_pcgSeed (a b : Word64) (s : State) :
    exec (.pcgSeed a b) s = .next (respond 0 { s with pcg := ⟨a, b, true⟩ }) := rfl

/-- `PCG.NEXT` on a seeded engine writes the new state and answers from the old one (R181-code). -/
theorem exec_pcgNext {s : State} {old inc : Word64} (h : s.pcg = ⟨old, inc, true⟩) :
    exec .pcgNext s =
      .next (respond (datum32 (pcgOutput old)) { s with pcg := ⟨pcgStep old inc, inc, true⟩ }) := by
  simp only [exec, execPcgNext, h, whenSeeded_true, pcgDraw]

theorem pcg_eq_of_seeded {s : State} (h : s.pcg.seeded = true) : s.pcg = ⟨s.pcg.state, s.pcg.inc, true⟩ := by
  rw [← h]

/-- `PCG.NEXT` on a seeded engine answers from the old state alone. -/
theorem exec_pcgNext_answers {s : State} {old inc : Word64} (h : s.pcg = ⟨old, inc, true⟩) :
    ∃ t, exec .pcgNext s = .next t ∧ t.responses = s.responses ++ [⟨.ok, datum32 (pcgOutput old)⟩] :=
  ⟨_, exec_pcgNext h, respond_responses _ _⟩

/-- The state that `PCG.NEXT` leaves is the transition's. -/
theorem exec_pcgNext_leaves_iff (s : State) (x inc y : Word64) :
    (∃ t, exec .pcgNext { s with pcg := ⟨x, inc, true⟩ } = .next t ∧ t.pcg.state = y) ↔ pcgStep x inc = y := by
  rw [exec_pcgNext rfl]
  simp only [Host.Outcome.next.injEq, exists_eq_left', respond_pcg]

/-- Settles O29: state and increment are loaded as they are. -/
theorem pcgSeedLoads : Obligations.PcgSeedLoads := exec_pcgSeed

/-- Settles O30: the transition and the output of the model are those on numbers. -/
theorem pcgNextSteps : Obligations.PcgNextSteps := by
  intro s hflag old xorshifted rot
  have hstate : pcgStep s.pcg.state s.pcg.inc =
      BitVec.ofNat 64 ((old * 6364136223846793005 + s.pcg.inc.toNat) % 2 ^ 64) := pcgStep_eq_ofNat _ _
  have houtput : pcgOutput s.pcg.state = ror32 (BitVec.ofNat 32 (xorshifted % 2 ^ 32)) rot :=
    pcgOutput_eq_ror32 _
  have hrot : rot ≤ 31 := by
    have : old < 2 ^ 64 := s.pcg.state.isLt
    omega
  refine ⟨hrot, ?_⟩
  rw [exec_pcgNext (pcg_eq_of_seeded hflag), datum32_eq_ofNat, houtput, hstate]
  rfl

/-- Settles O32: the transition is a bijection, and the answer is a function of the old state. -/
theorem pcgTransitionBijective : Obligations.PcgTransitionBijective := by
  constructor
  · intro s inc y
    simp only [exec_pcgNext_leaves_iff]
    exact (pcgStep_bijective inc).existsUnique y
  · intro s s' hflag hflag' hstate
    obtain ⟨t, hnext, hresponses⟩ := exec_pcgNext_answers (pcg_eq_of_seeded hflag)
    obtain ⟨t', hnext', hresponses'⟩ := exec_pcgNext_answers (pcg_eq_of_seeded hflag')
    exact ⟨t, t', _, hnext, hnext', hresponses, hstate ▸ hresponses'⟩

/-- Settles O33: the seeding leaves `a` itself, from which the output is 0. -/
theorem pcgSmallSeedDrawsZero : Obligations.PcgSmallSeedDrawsZero := by
  intro a b s ha
  obtain ⟨t, hnext, hresponses⟩ :=
    exec_pcgNext_answers (s := respond 0 { s with pcg := ⟨a, b, true⟩ }) (respond_pcg _ _)
  refine ⟨t, (runCommands_cons (exec_pcgSeed a b s) _).trans (runCommands_cons hnext []), ?_⟩
  rw [hresponses, respond_responses, pcgOutput_eq_zero ha, List.append_assoc]
  rfl

end Sys2Proof.Machine
end

section
/-! The `lag` engine (44_lagged.md): what its two commands leave behind. -/

namespace Sys2Proof.Machine

/-- A seeded engine with the block `b` and the count `c`. -/
def lagAt (b : LagBlock) (c : Nat) : Lag := { toLagBlock := b, count := BitVec.ofNat 9 c, seeded := true }

@[simp] theorem lagAt_toLagBlock (b : LagBlock) (c : Nat) : (lagAt b c).toLagBlock = b := rfl

theorem lagAt_count_toNat (b : LagBlock) {c : Nat} (h : c < 512) : (lagAt b c).count.toNat = c :=
  (BitVec.toNat_ofNat c 9).trans (Nat.mod_eq_of_lt h)

theorem eq_lagAt_of_seeded {e : Lag} {c : Nat} (hflag : e.seeded = true) (hcount : e.count.toNat = c) :
    e = lagAt e.toLagBlock c := by
  rw [lagAt, ← hflag, ← hcount, BitVec.ofNat_toNat, BitVec.setWidth_eq]

/-- At the count 0 a draw mixes the block and answers word 255 of the new one (R203-code). -/
theorem lagDraw_lagAt_zero (b : LagBlock) :
    lagDraw (lagAt b 0) = .ok (lagAt (Config.lagMix b) 255, temper (Config.lagMix b).word[255]) :=
  lagDraw_empty (lagAt b 0) rfl

/-- At a count from 1 to 256 a draw answers the word below the count and keeps the block (R204). -/
theorem lagDraw_lagAt_succ (b : LagBlock) {c : Nat} (h : c < 256) :
    lagDraw (lagAt b (c + 1)) = .ok (lagAt b c, temper b.word[c]) := by
  have hcount : (lagAt b (c + 1)).count.toNat = c + 1 := lagAt_count_toNat b (by omega)
  have nonzero : (lagAt b (c + 1)).count ≠ 0 := by bv_omega
  have below : ((lagAt b (c + 1)).count - 1).toNat = c := by bv_omega
  have popped : { lagAt b (c + 1) with count := (lagAt b (c + 1)).count - 1 } = lagAt b c :=
    eq_lagAt_of_seeded rfl below
  obtain ⟨_, hpop⟩ | ⟨habsent, -⟩ := lagPop_cases (lagAt b (c + 1))
  · rw [lagDraw_pops _ nonzero, hpop, popped]
    simp only [below]
    rfl
  · omega

theorem exec_lagSeed (a : Word64) (s : State) :
    exec (.lagSeed a) s = .next (respond 0 { s with lag := lagAt (Config.lagInit a) 0 }) := rfl

/-- `LAG.NEXT` on a seeded engine is its draw (R201-code). -/
theorem exec_lagNext {s : State} {d : Lag × Word32} (hflag : s.lag.seeded = true) (hdraw : lagDraw s.lag = .ok d) :
    exec .lagNext s = .next (respond (datum32 d.2) { s with lag := d.1 }) :=
  (Completes.drawLag hflag hdraw).exec_eq

/-- Settles O35: the seeding stores the block as LAG_INIT gives it. -/
theorem lagSeedLoads : Obligations.LagSeedLoads := exec_lagSeed

/-- Settles O36: the engine is at the count 0. -/
theorem lagNextRefills : Obligations.LagNextRefills := by
  intro s hflag hcount block
  have hdraw := (congrArg lagDraw (eq_lagAt_of_seeded hflag hcount)).trans (lagDraw_lagAt_zero _)
  rw [exec_lagNext hflag hdraw, datum32_eq_ofNat]
  rfl

/-- Settles O37: the engine is at the count `c + 1`. -/
theorem lagNextPops : Obligations.LagNextPops := by
  intro s c hc hflag hcount
  have hdraw := (congrArg lagDraw (eq_lagAt_of_seeded hflag hcount)).trans (lagDraw_lagAt_succ _ hc)
  rw [exec_lagNext hflag hdraw, datum32_eq_ofNat]
  rfl

end Sys2Proof.Machine
end

section
/-! The schedule of the refills and pops (44_lagged.md R208): where the `lag` engine stands after any number of draws. -/

namespace Sys2Proof.Machine

/-- The engine seeded with the block `b`, after `n` draws. -/
def lagAfterDraws (b : LagBlock) (n : Nat) : Lag := lagAt (Config.lagMix^[(n + 255) / 256] b) (255 - (n + 255) % 256)

theorem lagAfterDraws_zero (b : LagBlock) : lagAfterDraws b 0 = lagAt b 0 := rfl

theorem lagAfterDraws_succ (b : LagBlock) (n : Nat) :
    lagAfterDraws b (n + 1) = lagAt (Config.lagMix^[n / 256 + 1] b) (255 - n % 256) := by
  have blocks : (n + 1 + 255) / 256 = n / 256 + 1 := by omega
  have place : (n + 1 + 255) % 256 = n % 256 := by omega
  rw [lagAfterDraws, blocks, place]

/-- One draw takes the engine from `n` draws to `n + 1`, and answers the word at the new count. A draw refills exactly
when the draws before it have used up whole blocks. -/
theorem lagDraw_lagAfterDraws (b : LagBlock) (n : Nat) :
    lagDraw (lagAfterDraws b n) =
      .ok (lagAfterDraws b (n + 1), temper ((lagAfterDraws b (n + 1)).word[255 - n % 256]'(by omega))) := by
  rw [lagAfterDraws_succ]
  by_cases usedUp : n % 256 = 0
  · have hempty : lagAfterDraws b n = lagAt (Config.lagMix^[n / 256] b) 0 := by
      rw [lagAfterDraws, show (n + 255) / 256 = n / 256 by omega, show 255 - (n + 255) % 256 = 0 by omega]
    rw [hempty, lagDraw_lagAt_zero, ← Function.iterate_succ_apply' Config.lagMix]
    simp only [usedUp]
    rfl
  · have hinside : lagAfterDraws b n = lagAt (Config.lagMix^[n / 256 + 1] b) (255 - n % 256 + 1) := by
      rw [lagAfterDraws, show (n + 255) / 256 = n / 256 + 1 by omega,
        show 255 - (n + 255) % 256 = 255 - n % 256 + 1 by omega]
    rw [hinside, lagDraw_lagAt_succ _ (by omega)]
    rfl

/-- The state has the engine that was seeded with the block `b` and drawn from `n` times, and its last response is that
of the last draw, if there was one. -/
structure HasPopped (b : LagBlock) (n : Nat) (s : State) : Prop where
  lag : s.lag = lagAfterDraws b n
  last : ∀ m, n = m + 1 →
    lastResponse s = some ⟨.ok, datum32 (temper (s.lag.word[255 - m % 256]'(by omega)))⟩

/-- The seeding, before any draw. -/
theorem hasPopped_zero (a : Word64) (s : State) :
    HasPopped (Config.lagInit a) 0 (respond 0 { s with lag := lagAt (Config.lagInit a) 0 }) :=
  ⟨(lagAfterDraws_zero _).symm, nofun⟩

theorem HasPopped.issue {b : LagBlock} {n : Nat} {s : State} (ws : List CommandWord) (h : HasPopped b n s) :
    HasPopped b n (issuing ws s) :=
  ⟨h.lag, h.last⟩

/-- One more `LAG.NEXT` is one more draw. -/
theorem HasPopped.draw {b : LagBlock} {n : Nat} {s : State} (h : HasPopped b n s) :
    ∃ t, exec .lagNext s = .next t ∧ HasPopped b (n + 1) t := by
  have hflag : s.lag.seeded = true := h.lag ▸ rfl
  have hdraw := (congrArg lagDraw h.lag).trans (lagDraw_lagAfterDraws b n)
  refine ⟨_, exec_lagNext hflag hdraw, rfl, fun m hm => ?_⟩
  cases hm
  exact List.getLast?_concat

/-- What a command advances by 1, from every state, a run of `k` words of that command advances by `k`. -/
theorem run_issuing_replicate {w : CommandWord} {i : Instr} (hw : decode w = .ok i) {P : Nat → State → Prop}
    (issue : ∀ {n s} ws, P n s → P n (issuing ws s))
    (advance : ∀ {n s}, P n s → ∃ t, exec i s = .next t ∧ P (n + 1) t) (k : Nat) :
    ∀ {n s}, P n s → ∃ t,
      core.run (List.replicate k w).length (issuing (List.replicate k w) s) = .next t ∧ P (n + k) t := by
  induction k with
  | zero => exact fun h => ⟨_, rfl, issue [] h⟩
  | succ k ih =>
    intro n s h
    obtain ⟨u, hu, advanced⟩ := advance (issue (List.replicate k w) h)
    obtain ⟨t, hrun, ht⟩ := ih advanced
    refine ⟨t, (run_issuing_cons ((performCommand_ok hw _).trans hu)).trans hrun, ?_⟩
    rwa [Nat.add_comm k, ← Nat.add_assoc]

/-- Settles O38: the seeding, and then the run of the draws. -/
theorem lagRefillSchedule : Obligations.LagRefillSchedule := by
  intro a s w0 w1 h0 h1
  have seeds (ws : List CommandWord) := (performCommand_ok h0 _).trans (exec_lagSeed a (issuing ws s))
  refine ⟨⟨_, run_issuing_cons (seeds []), rfl, rfl⟩, fun n => ?_⟩
  obtain ⟨t, hrun, hlag, hlast⟩ :=
    run_issuing_replicate h1 HasPopped.issue HasPopped.draw (n + 1) (hasPopped_zero a _)
  rw [Nat.zero_add] at hlag hlast
  rw [lagAfterDraws_succ] at hlag
  refine ⟨t, ?_, ?_, ?_, hlast n rfl⟩
  · simpa only [List.length_cons, List.length_replicate] using (run_issuing_cons (seeds _)).trans hrun
  · rw [hlag, lagAt_toLagBlock]
  · rw [hlag, lagAt_count_toNat _ (by omega)]

end Sys2Proof.Machine
end

section
/-! The ten commands of 45_combiner.md R237: the five `SEED`s and the five `NEXT`s make the draws of a `COMBINE`. -/

namespace Sys2Proof.Machine

/-- The five answers of the `NEXT`s that make the draws `d`, in the order of the ten commands. -/
def FiveDraws.answers (d : FiveDraws) : List Response :=
  [⟨.ok, datum32 d.lcg.2⟩, ⟨.ok, datum64 d.xs.2⟩, ⟨.ok, datum32 d.mt.2⟩, ⟨.ok, datum32 d.pcg.2⟩,
    ⟨.ok, datum32 d.lag.2⟩]

/-- The state after the five `SEED`s of the ten commands. -/
def afterFiveSeeds (m : Word64) (s : State) : State :=
  { s with
    lcg := lcgSeed m, xs := xsSeed m (m + 1), mt := mtSeed m, pcg := pcgSeed m (m + 1), lag := lagSeed m
    responses := s.responses ++ List.replicate 5 ⟨.ok, 0⟩ }

/-- The state after `NEXT`s of the five engines that have made the draws `d`. -/
def afterFiveNexts (d : FiveDraws) (s : State) : State :=
  { s with
    lcg := d.lcg.1, xs := d.xs.1, mt := d.mt.1, pcg := d.pcg.1, lag := d.lag.1
    responses := s.responses ++ d.answers }

/-- Every master seed has its five draws: that a `COMBINE` completes says so. -/
theorem exists_fiveDraws (m : Word64) : ∃ d, FiveDraws.From m d := by
  obtain ⟨t, ht⟩ := combineBody_completes m State.reset
  obtain ⟨d, hd, -⟩ := combineBody_next_iff.1 ht
  exact ⟨d, hd⟩

/-- A sequence of commands runs on from where its first command completes. -/
theorem Completes.runCommands_cons {i : Instr} {is : List Instr} {s u : State} {out : Answer} (h : Completes s i u)
    (rest : runCommands is u = out) : runCommands (i :: is) s = out :=
  (Machine.runCommands_cons h.exec_eq is).trans rest

theorem runCommands_fiveSeeds (m : Word64) (s : State) (is : List Instr) :
    runCommands (.lcgSeed m :: .xsSeed m (m + 1) :: .mtSeed m :: .pcgSeed m (m + 1) :: .lagSeed m :: is) s =
      runCommands is (afterFiveSeeds m s) := by
  refine Completes.runCommands_cons (.seedLcg m) ?_
  refine Completes.runCommands_cons (.seedXs m _) ?_
  refine Completes.runCommands_cons (.seedMt m) ?_
  refine Completes.runCommands_cons (.seedPcg m _) ?_
  refine Completes.runCommands_cons (.seedLag m) ?_
  simp only [afterFiveSeeds, respond, answer, List.append_assoc]
  rfl

/-- No draw looks at another engine, so each finds its own as the `SEED`s left it. -/
theorem runCommands_fiveNexts {m : Word64} {d : FiveDraws} (hd : d.From m) (s : State) :
    runCommands [.lcgNext, .xsNext, .mtNext, .pcgNext, .lagNext] (afterFiveSeeds m s) =
      .next (afterFiveNexts d (afterFiveSeeds m s)) := by
  refine Completes.runCommands_cons (.drawLcg rfl hd.lcg) ?_
  refine Completes.runCommands_cons (.drawXs rfl hd.xs) ?_
  refine Completes.runCommands_cons (.drawMt rfl hd.mt) ?_
  refine Completes.runCommands_cons (.drawPcg rfl hd.pcg) ?_
  refine Completes.runCommands_cons (.drawLag rfl hd.lag) ?_
  simp only [runCommands, afterFiveNexts, respond, answer, List.append_assoc]
  rfl

theorem runCommands_tenCommands {m : Word64} {d : FiveDraws} (hd : d.From m) (s : State) :
    runCommands (tenCommands m) s = .next (afterFiveNexts d (afterFiveSeeds m s)) :=
  (runCommands_fiveSeeds m s _).trans (runCommands_fiveNexts hd s)

/-- The responses of the ten commands: five `SEED`s' and the five draws'. -/
theorem tenCommands_responses (m : Word64) (d : FiveDraws) (s : State) :
    (afterFiveNexts d (afterFiveSeeds m s)).responses =
      s.responses ++ (List.replicate 5 ⟨.ok, 0⟩ ++ d.answers) :=
  List.append_assoc _ _ _

end Sys2Proof.Machine
end

section
/-! The Combiner (45_combiner.md): both forms are the common body for their master seed; the body's sum, its bound
and its mean. -/

namespace Sys2Proof.Machine

/-- The datum that a `COMBINE` answers when it has made the draws `d`. -/
def FiveDraws.datum (d : FiveDraws) : Datum :=
  combineDatum (combineSum d.lcg.2 d.xs.2 d.mt.2 d.pcg.2 d.lag.2)

theorem afterCombine_responses (d : FiveDraws) (s : State) :
    (afterCombine d s).responses = s.responses ++ [⟨.ok, d.datum⟩] := rfl

/-- The weighted sum of R233-code, of the data that the five draws answer. -/
theorem FiveDraws.datum_toNat (d : FiveDraws) :
    d.datum.toNat = (datum32 d.lcg.2).toNat * 2 ^ 32 + (datum64 d.xs.2).toNat +
      ((datum32 d.mt.2).toNat + (datum32 d.pcg.2).toNat + (datum32 d.lag.2).toNat) * 2 ^ 32 := by
  rw [datum, combineDatum_toNat (combineSum_lt _ _ _ _ _), combineSum]
  simp only [datum32_toNat, datum64_toNat]
  omega

/-- R235: the sum is largest with every bit of the five numerators 1. -/
theorem FiveDraws.datum_le (d : FiveDraws) : d.datum.toNat ≤ 5 * 2 ^ 64 - 2 ^ 34 - 1 := by
  have hlcg := datum32_lt d.lcg.2
  have hxs := datum64_lt d.xs.2
  have hmt := datum32_lt d.mt.2
  have hpcg := datum32_lt d.pcg.2
  have hlag := datum32_lt d.lag.2
  rw [d.datum_toNat]
  omega

/-- `i` is a `COMBINE`, of either form, with master seed `m` (R230, R231). -/
def HasMaster (i : Instr) (m : Word64) : Prop :=
  i = .combineClk m ∨ ∃ a b, i = .combineSeed a b ∧ m = a * b

theorem exists_master {i : Instr} (hi : engineOf i = none) : ∃ m, HasMaster i m :=
  match i, hi with
  | .combineClk b, _ => ⟨b, .inl rfl⟩
  | .combineSeed a b, _ => ⟨a * b, .inr ⟨a, b, rfl, rfl⟩⟩

theorem HasMaster.denominatorOf_eq {i : Instr} {m : Word64} (h : HasMaster i m) :
    denominatorOf i = some (5 * 2 ^ 64) := by
  obtain rfl | ⟨a, b, rfl, -⟩ := h
  · rfl
  · rfl

theorem HasMaster.exec_eq_combineBody {i : Instr} {m : Word64} (h : HasMaster i m) (s : State) :
    exec i s = combineBody m s := by
  obtain rfl | ⟨a, b, rfl, rfl⟩ := h
  · rfl
  · rfl

/-- What a `COMBINE` answers, from every state, once the draws for its master seed are known. -/
theorem HasMaster.exec_eq {i : Instr} {m : Word64} {d : FiveDraws} (h : HasMaster i m) (hd : d.From m) (s : State) :
    exec i s = .next (afterCombine d s) :=
  (h.exec_eq_combineBody s).trans (combineBody_next_iff.2 ⟨d, hd, rfl⟩)

/-- R237: a `COMBINE` and the ten commands for its master seed make the same five draws. -/
theorem HasMaster.combinesAs {i : Instr} {m : Word64} (h : HasMaster i m) (s : State) : CombinesAs i m s := by
  obtain ⟨d, hd⟩ := exists_fiveDraws m
  exact ⟨_, _, _, _, _, _, d.datum, runCommands_tenCommands hd s, tenCommands_responses m d s, d.datum_toNat,
    h.exec_eq hd s⟩

/-- Settles O39: the product of the operands as words is the residue of their product as numbers. -/
theorem combineIsTenCommands : Obligations.CombineIsTenCommands := by
  refine ⟨fun b => HasMaster.combinesAs (.inl rfl), fun a b => HasMaster.combinesAs (.inr ⟨a, b, rfl, ?_⟩)⟩
  rw [← BitVec.toNat_mul, BitVec.ofNat_toNat, BitVec.setWidth_eq]

theorem responseValue_ok {i : Instr} {den : Nat} (hi : denominatorOf i = some den) (n : Datum) :
    responseValue i ⟨.ok, n⟩ = some ((n.toNat : ℚ) / (den : ℚ)) := by
  simp only [responseValue, hi]

/-- R235: the sum over `5 * 2^64` is the mean of the five fractions, each brought to the denominator `2^64`. -/
theorem FiveDraws.value_eq_mean (d : FiveDraws) :
    (d.datum.toNat : ℚ) / (5 * 2 ^ 64 : ℕ) =
      ((datum32 d.lcg.2).toNat / (2 ^ 32 : ℕ) + (datum64 d.xs.2).toNat / (2 ^ 64 : ℕ) +
        (datum32 d.mt.2).toNat / (2 ^ 32 : ℕ) + (datum32 d.pcg.2).toNat / (2 ^ 32 : ℕ) +
        (datum32 d.lag.2).toNat / (2 ^ 32 : ℕ)) / 5 := by
  rw [d.datum_toNat]
  push_cast
  ring

/-- Settles O40: the responses named in the statement are those of the draws for `m`, once by the `COMBINE` and once by
the ten commands. -/
theorem combineIsExactMean : Obligations.CombineIsExactMean := by
  intro i m s t u r r1 r2 r3 r4 r5 seeds (hi : HasMaster i m) hexec hr hten hseeds hu
  obtain ⟨d, hd⟩ := exists_fiveDraws m
  cases (hi.exec_eq hd s).symm.trans hexec
  cases (runCommands_tenCommands hd s).symm.trans hten
  cases List.append_cancel_left ((afterCombine_responses d s).symm.trans hr)
  rw [tenCommands_responses, List.append_assoc] at hu
  obtain ⟨-, hdraws⟩ := List.append_inj (List.append_cancel_left hu) (hseeds ▸ List.length_replicate)
  cases hdraws
  refine ⟨d.datum_le, _, _, _, _, _, responseValue_ok rfl _, responseValue_ok rfl _, responseValue_ok rfl _,
    responseValue_ok rfl _, responseValue_ok rfl _, ?_⟩
  rw [responseValue_ok hi.denominatorOf_eq, d.value_eq_mean]

/-- Settles O41: the draws depend on the master seed alone. -/
theorem combineIsDeterministic : Obligations.CombineIsDeterministic := by
  intro i s s' hi
  obtain ⟨m, hm⟩ := exists_master hi
  obtain ⟨d, hd⟩ := exists_fiveDraws m
  exact ⟨_, _, _, hm.exec_eq hd s, hm.exec_eq hd s', fun e => by cases e <;> rfl,
    afterCombine_responses d s, afterCombine_responses d s'⟩

/-- Settles O42: taking the residue modulo 2^64 respects product and successor. -/
theorem masterSeedOfIntegers : Obligations.MasterSeedOfIntegers := by
  refine ⟨fun u v s => ?_, fun v => ?_, low32_operandOfInt_toNat⟩
  · have product : operandOfInt (u * v) = operandOfInt u * operandOfInt v := BitVec.ofInt_mul u v
    rw [product]
    rfl
  · exact (BitVec.ofInt_add v 1).symm

end Sys2Proof.Machine
end

section
/-! Exceptions (60_exceptions.md): which commands answer `NotSeeded`, that every other one answers `OK`, and that nothing
ever stops the block. -/

namespace Sys2Proof.Machine

/-- A command that completes has raised `NotSeeded` for the engine it draws from, or has answered `OK`. -/
theorem Completes.notSeeded_or_ok {i : Instr} {s t : State} (h : Completes s i t) :
    (∃ e, drawsEngine i = some e ∧ seededFlag e s = false ∧ t = raise .notSeeded s) ∨
    ∃ d, t.responses = s.responses ++ [⟨.ok, d⟩] := by
  cases h with
  | notSeeded hi hflag => exact .inl ⟨_, hi, hflag, rfl⟩
  | combineClk | combineSeed => exact .inr ⟨_, afterCombine_responses _ s⟩
  | seedLcg | drawLcg | seedXs | drawXs | seedMt | drawMt | seedPcg | drawPcg | seedLag | drawLag =>
    exact .inr ⟨_, respond_responses _ _⟩

/-- Settles O43: a command that does not raise `NotSeeded` answers `OK`, and the response appended is one alone. -/
theorem notSeededExactly : Obligations.NotSeededExactly := by
  refine ⟨fun i e s hi hflag => exec_of_unseeded hi hflag, fun i s t r h hr hstatus => ?_⟩
  obtain ⟨e, hi, hflag, -⟩ | ⟨d, hd⟩ := (completes_of_exec h).notSeeded_or_ok
  · exact ⟨e, hi, hflag⟩
  · have same : [⟨.ok, d⟩] = [r] := List.append_cancel_left (hd.symm.trans hr)
    cases same
    cases hstatus

/-- Settles O45: in a legal state the command completes, and the premise on its engine leaves only the `OK` answer. -/
theorem seededCommandsAnswerOk : Obligations.SeededCommandsAnswerOk := by
  intro i s hs hseeded
  obtain ⟨t, h⟩ := exec_completes hs i
  obtain ⟨e, hi, hflag, -⟩ | ⟨d, hd⟩ := (completes_of_exec h).notSeeded_or_ok
  · cases (hseeded e hi).symm.trans hflag
  · exact ⟨t, d, h, hd⟩

/-- Settles O10: the step takes the move, a command word, and performs what the word decodes to. -/
theorem stepRunsDecodedCommand : Obligations.StepRunsDecodedCommand :=
  fun _ _ _ _ hmoves hd => (step_command hmoves).trans (performCommand_ok hd _)

/-- Settles O12: there is no move to take, and being idle keeps the state. -/
theorem idleKeepsState : Obligations.IdleKeepsState := by
  intro s hmoves
  rw [step, fetchMove_nil hmoves]
  rfl

/-- From a legal state every step completes, whatever the host's next move, if any (70_reset_and_hazards.md R288). -/
theorem step_completes {s : State} (hs : Legal s) : ∃ t, step s = .next t ∧ Legal t := by
  have completes : ∃ t, step s = .next t := by
    obtain ⟨-, hstep⟩ | ⟨rest, -, hstep⟩ | ⟨w, rest, i, -, -, hstep⟩ | ⟨w, rest, e, -, -, hstep⟩ := step_cases s
    · exact ⟨_, hstep⟩
    · exact ⟨_, hstep⟩
    · rw [hstep]
      exact exec_completes (s := { s with moves := rest }) hs i
    · exact ⟨_, hstep⟩
  obtain ⟨t, h⟩ := completes
  exact ⟨t, h, stepKeepsLegal s t hs h⟩

/-- A property from which every step completes, and which it keeps, keeps every run going. -/
theorem run_completes {M : Host.Core} {P : M.State → Prop} (hstep : ∀ s, P s → ∃ t, M.step s = .next t ∧ P t)
    (n : Nat) : ∀ s, P s → ∃ t, M.run n s = .next t ∧ P t := by
  induction n with
  | zero => exact fun s hs => ⟨s, rfl, hs⟩
  | succ n ih =>
    intro s hs
    obtain ⟨u, hu, hPu⟩ := hstep s hs
    rw [run_succ_of_step hu]
    exact ih u hPu

/-- Settles O49, by the step above and induction on the length of the run. -/
theorem legalRunsNeverStop : Obligations.LegalRunsNeverStop :=
  fun s n hs => run_completes (M := core) (P := Legal) (fun _ => step_completes) n s hs

end Sys2Proof.Machine
end

section
/-! Command words as the host gives them: the words printed by the spec (95_test_vectors.md), the words of the opcode table
placed as the next move, and the one response that every word gets (70_reset_and_hazards.md R289). -/

namespace Sys2Proof.Machine

theorem decode_of_encode_eq {w : CommandWord} {i : Instr} (h : encode i = w) : decode w = .ok i :=
  h ▸ encodeThenDecode i

/-- Settles O6: the first six words are the encodings of their commands. The last is not, since its field `a` is not 0
(V56), but it has the opcode of its command and the clock reading in field `b`. -/
theorem writtenWordsDecode : Obligations.WrittenWordsDecode := by
  refine ⟨decode_of_encode_eq ?_, decode_of_encode_eq ?_, decode_of_encode_eq ?_, decode_of_encode_eq ?_,
    decode_of_encode_eq ?_, decode_of_encode_eq ?_, decode_eq_ok_iff.2 ⟨?_, ?_⟩⟩ <;> decide

theorem decodeTableWord_eq_some_iff {nbits w : Nat} {i : Instr} :
    decodeTableWord nbits w = some i ↔ decode (tableWord nbits w) = .ok i := by
  unfold decodeTableWord
  cases decode (tableWord nbits w) <;> simp

/-- Settles O11: the step takes the placed word, which leaves the host's other moves as they were, and performs it. -/
theorem placedWordRuns : Obligations.PlacedWordRuns := by
  intro s nbits w i hw
  calc step (s.withFetchWord nbits w)
      = performCommand (tableWord nbits w) s := step_command (placeCommand_moves s _)
    _ = exec i s := performCommand_ok (decodeTableWord_eq_some_iff.1 hw) s

/-- What performing a word has done: the word was no command and was answered `IllegalCommand`, or a command completed. -/
theorem performCommand_next {w : CommandWord} {s t : State} (h : performCommand w s = .next t) :
    t = raise .illegalCommand s ∨ ∃ i, Completes s i t := by
  cases hd : decode w with
  | error e => exact .inl (Host.Outcome.next.inj ((performCommand_error hd s).symm.trans h)).symm
  | ok i => exact .inr ⟨i, completes_of_exec ((performCommand_ok hd s).symm.trans h)⟩

/-- Settles O50: the step performs the word without the move that brought it; be it a command or not, it is performed to
the end, and what it has then done gives one response and takes no further move. -/
theorem oneResponsePerCommand : Obligations.OneResponsePerCommand := by
  intro s w rest hs hmoves
  obtain ⟨t, h, -⟩ := performCommand_completes (s := { s with moves := rest }) hs w
  have hstep : step s = .next t := (step_command hmoves).trans h
  obtain rfl | ⟨i, hc⟩ := performCommand_next h
  · exact ⟨_, _, hstep, raise_responses _ _, raise_moves _ _, raise_resets _ _⟩
  · obtain ⟨r, hr, -⟩ := exec_answersOnce hc.exec_eq
    exact ⟨t, r, hstep, hr, hc.moves_eq, hc.resets_eq⟩

end Sys2Proof.Machine
end

section
/-! Seeding again (70_reset_and_hazards.md R285): a `SEED` completes from every state, and what it makes of its engine
depends on its operands alone. -/

namespace Sys2Proof.Machine

theorem completes_of_seedsEngine {i : Instr} {e : Engine} (hi : seedsEngine i = some e) (s s' : State) :
    ∃ t t', Completes s i t ∧ Completes s' i t' ∧ sameEngine e t t' :=
  match i, hi with
  | .lcgSeed a, rfl => ⟨_, _, .seedLcg a, .seedLcg a, rfl⟩
  | .xsSeed a b, rfl => ⟨_, _, .seedXs a b, .seedXs a b, rfl⟩
  | .mtSeed a, rfl => ⟨_, _, .seedMt a, .seedMt a, rfl⟩
  | .pcgSeed a b, rfl => ⟨_, _, .seedPcg a b, .seedPcg a b, rfl⟩
  | .lagSeed a, rfl => ⟨_, _, .seedLag a, .seedLag a, rfl⟩

/-- Settles O54: the flag is that of a command's own engine, and `(OK, 0)` is all that a `SEED` may answer. -/
theorem reseedErases : Obligations.ReseedErases := by
  intro i e s s' hi
  obtain ⟨t, t', hc, hc', same⟩ := completes_of_seedsEngine hi s s'
  have hflag : seededFlag e t = true := (hc.ownFlag (engineOf_of_seedsEngine hi)).trans (if_pos hi)
  obtain ⟨r, hr, hmay⟩ := exec_answersOnce hc.exec_eq
  obtain rfl := (mayAnswer_seed (denominatorOf_of_seedsEngine hi)).1 hmay
  exact ⟨t, t', hc.exec_eq, hc'.exec_eq, same, hflag, hr⟩

end Sys2Proof.Machine
end
